-- ==== Sys2Proof/Word.lean ====
section
/-! DEFINITION. The word types of the XAVM: the three operand widths and the address width (R8, R10). -/

namespace Sys2Proof

/-- A byte: 8 bits (R6, R8). -/
abbrev Byte := BitVec 8

/-- A "word" operand: 16 bits (R8). -/
abbrev Word := BitVec 16

/-- A "double-word" operand: 32 bits (R8). -/
abbrev DWord := BitVec 32

/-- An address, and each of `pc`, `sp`, `fp`: 16 bits, an index into the memory image (R8). -/
abbrev Addr := BitVec 16

end Sys2Proof
end

