-- ==== Sys2Proof/Syntax.lean ====
section
/-! DEFINITION. The instructions of the XAVM as syntax: one constructor per row of the opcode map (R110),
with the operand each format carries (R101). -/

namespace Sys2Proof

/-- The seven instruction formats (R101). -/
inductive Format where
  /-- No operand, 1 byte. -/
  | n
  /-- An 8-bit immediate, 2 bytes. -/
  | i8
  /-- A 16-bit immediate, 3 bytes. -/
  | i16
  /-- A 32-bit immediate, 5 bytes. -/
  | i32
  /-- A signed 16-bit frame offset, 3 bytes. -/
  | f16
  /-- An absolute 16-bit index, 3 bytes. -/
  | a16
  /-- An unsigned 16-bit count or native id, 3 bytes. -/
  | u16
  deriving DecidableEq, Repr

/-- The length in bytes of an instruction of a format, opcode byte included (R101). -/
def Format.length : Format → Nat
  | .n => 1
  | .i8 => 2
  | .i16 => 3
  | .i32 => 5
  | .f16 => 3
  | .a16 => 3
  | .u16 => 3

/-- The 69 instructions (R110). An operand has the width of its field (R101): no operand value is
reserved (R111). -/
inductive Instr where
  /-- `PUSHI.B`, opcode 0x04, format I8 (R131). -/
  | pushiB (imm : BitVec 8)
  /-- `PUSHI.W`, opcode 0x05, format I16 (R132). -/
  | pushiW (imm : BitVec 16)
  /-- `PUSHI.D`, opcode 0x06, format I32 (R133). -/
  | pushiD (imm : BitVec 32)
  /-- `PUSHF.B`, opcode 0x08, format F16 (R134). -/
  | pushfB (off : BitVec 16)
  /-- `PUSHF.W`, opcode 0x09, format F16 (R135). -/
  | pushfW (off : BitVec 16)
  /-- `PUSHF.D`, opcode 0x0A, format F16 (R136). -/
  | pushfD (off : BitVec 16)
  /-- `PUSHA.B`, opcode 0x0C, format A16 (R137). -/
  | pushaB (addr : BitVec 16)
  /-- `PUSHA.W`, opcode 0x0D, format A16 (R138). -/
  | pushaW (addr : BitVec 16)
  /-- `PUSHA.D`, opcode 0x0E, format A16 (R139). -/
  | pushaD (addr : BitVec 16)
  /-- `PUSHD.B`, opcode 0x10, format N (R140). -/
  | pushdB
  /-- `PUSHD.W`, opcode 0x11, format N (R141). -/
  | pushdW
  /-- `PUSHD.D`, opcode 0x12, format N (R142). -/
  | pushdD
  /-- `POPF.B`, opcode 0x14, format F16 (R143). -/
  | popfB (off : BitVec 16)
  /-- `POPF.W`, opcode 0x15, format F16 (R144). -/
  | popfW (off : BitVec 16)
  /-- `POPF.D`, opcode 0x16, format F16 (R145). -/
  | popfD (off : BitVec 16)
  /-- `POPA.B`, opcode 0x18, format A16 (R146). -/
  | popaB (addr : BitVec 16)
  /-- `POPA.W`, opcode 0x19, format A16 (R147). -/
  | popaW (addr : BitVec 16)
  /-- `POPA.D`, opcode 0x1A, format A16 (R148). -/
  | popaD (addr : BitVec 16)
  /-- `POPD.B`, opcode 0x1C, format N (R149). -/
  | popdB
  /-- `POPD.W`, opcode 0x1D, format N (R150). -/
  | popdW
  /-- `POPD.D`, opcode 0x1E, format N (R151). -/
  | popdD
  /-- `ADD.B`, opcode 0x20, format N (R162). -/
  | addB
  /-- `ADD.W`, opcode 0x21, format N (R163). -/
  | addW
  /-- `ADD.D`, opcode 0x22, format N (R164). -/
  | addD
  /-- `SUB.B`, opcode 0x24, format N (R165). -/
  | subB
  /-- `SUB.W`, opcode 0x25, format N (R166). -/
  | subW
  /-- `SUB.D`, opcode 0x26, format N (R167). -/
  | subD
  /-- `MUL.B`, opcode 0x28, format N (R168). -/
  | mulB
  /-- `MUL.W`, opcode 0x29, format N (R169). -/
  | mulW
  /-- `MUL.D`, opcode 0x2A, format N (R170). -/
  | mulD
  /-- `DIV.B`, opcode 0x2C, format N (R171). -/
  | divB
  /-- `DIV.W`, opcode 0x2D, format N (R172). -/
  | divW
  /-- `DIV.D`, opcode 0x2E, format N (R173). -/
  | divD
  /-- `MOD.B`, opcode 0x30, format N (R174). -/
  | modB
  /-- `MOD.W`, opcode 0x31, format N (R175). -/
  | modW
  /-- `MOD.D`, opcode 0x32, format N (R176). -/
  | modD
  /-- `AND.B`, opcode 0x34, format N (R177). -/
  | andB
  /-- `AND.W`, opcode 0x35, format N (R178). -/
  | andW
  /-- `AND.D`, opcode 0x36, format N (R179). -/
  | andD
  /-- `OR.B`, opcode 0x38, format N (R180). -/
  | orB
  /-- `OR.W`, opcode 0x39, format N (R181). -/
  | orW
  /-- `OR.D`, opcode 0x3A, format N (R182). -/
  | orD
  /-- `XOR.B`, opcode 0x3C, format N (R183). -/
  | xorB
  /-- `XOR.W`, opcode 0x3D, format N (R184). -/
  | xorW
  /-- `XOR.D`, opcode 0x3E, format N (R185). -/
  | xorD
  /-- `SHL.B`, opcode 0x40, format N (R186). -/
  | shlB
  /-- `SHL.W`, opcode 0x41, format N (R187). -/
  | shlW
  /-- `SHL.D`, opcode 0x42, format N (R188). -/
  | shlD
  /-- `SHR.B`, opcode 0x44, format N (R189). -/
  | shrB
  /-- `SHR.W`, opcode 0x45, format N (R190). -/
  | shrW
  /-- `SHR.D`, opcode 0x46, format N (R191). -/
  | shrD
  /-- `JGZ.B`, opcode 0x48, format A16 (R201). -/
  | jgzB (addr : BitVec 16)
  /-- `JGZ.W`, opcode 0x49, format A16 (R202). -/
  | jgzW (addr : BitVec 16)
  /-- `JGZ.D`, opcode 0x4A, format A16 (R203). -/
  | jgzD (addr : BitVec 16)
  /-- `JGEZ.B`, opcode 0x4C, format A16 (R204). -/
  | jgezB (addr : BitVec 16)
  /-- `JGEZ.W`, opcode 0x4D, format A16 (R205). -/
  | jgezW (addr : BitVec 16)
  /-- `JGEZ.D`, opcode 0x4E, format A16 (R206). -/
  | jgezD (addr : BitVec 16)
  /-- `JEZ.B`, opcode 0x50, format A16 (R207). -/
  | jezB (addr : BitVec 16)
  /-- `JEZ.W`, opcode 0x51, format A16 (R208). -/
  | jezW (addr : BitVec 16)
  /-- `JEZ.D`, opcode 0x52, format A16 (R209). -/
  | jezD (addr : BitVec 16)
  /-- `JNEZ.B`, opcode 0x54, format A16 (R210). -/
  | jnezB (addr : BitVec 16)
  /-- `JNEZ.W`, opcode 0x55, format A16 (R211). -/
  | jnezW (addr : BitVec 16)
  /-- `JNEZ.D`, opcode 0x56, format A16 (R212). -/
  | jnezD (addr : BitVec 16)
  /-- `JMP`, opcode 0x60, format A16 (R200). -/
  | jmp (addr : BitVec 16)
  /-- `CALL`, opcode 0x61, format A16 (R213). -/
  | call (addr : BitVec 16)
  /-- `RET`, opcode 0x62, format U16 (R214). -/
  | ret (n16 : BitVec 16)
  /-- `ECALL`, opcode 0x63, format U16 (R230). -/
  | ecall (id16 : BitVec 16)
  /-- `SYNC`, opcode 0x64, format N (R240). -/
  | sync
  /-- `ASYNC`, opcode 0x65, format N (R242). -/
  | async
  deriving DecidableEq, Repr

/-- The format of each instruction (R110). -/
def Instr.format : Instr → Format
  | .pushiB _ => .i8
  | .pushiW _ => .i16
  | .pushiD _ => .i32
  | .pushfB _ => .f16
  | .pushfW _ => .f16
  | .pushfD _ => .f16
  | .pushaB _ => .a16
  | .pushaW _ => .a16
  | .pushaD _ => .a16
  | .pushdB => .n
  | .pushdW => .n
  | .pushdD => .n
  | .popfB _ => .f16
  | .popfW _ => .f16
  | .popfD _ => .f16
  | .popaB _ => .a16
  | .popaW _ => .a16
  | .popaD _ => .a16
  | .popdB => .n
  | .popdW => .n
  | .popdD => .n
  | .addB => .n
  | .addW => .n
  | .addD => .n
  | .subB => .n
  | .subW => .n
  | .subD => .n
  | .mulB => .n
  | .mulW => .n
  | .mulD => .n
  | .divB => .n
  | .divW => .n
  | .divD => .n
  | .modB => .n
  | .modW => .n
  | .modD => .n
  | .andB => .n
  | .andW => .n
  | .andD => .n
  | .orB => .n
  | .orW => .n
  | .orD => .n
  | .xorB => .n
  | .xorW => .n
  | .xorD => .n
  | .shlB => .n
  | .shlW => .n
  | .shlD => .n
  | .shrB => .n
  | .shrW => .n
  | .shrD => .n
  | .jgzB _ => .a16
  | .jgzW _ => .a16
  | .jgzD _ => .a16
  | .jgezB _ => .a16
  | .jgezW _ => .a16
  | .jgezD _ => .a16
  | .jezB _ => .a16
  | .jezW _ => .a16
  | .jezD _ => .a16
  | .jnezB _ => .a16
  | .jnezW _ => .a16
  | .jnezD _ => .a16
  | .jmp _ => .a16
  | .call _ => .a16
  | .ret _ => .u16
  | .ecall _ => .u16
  | .sync => .n
  | .async => .n

end Sys2Proof
end

