-- ==== Sys2Proof/WellFormed.lean ====
section
/-! DEFINITION. What a line of a program may say (R114): whether a format takes an operand and which numbers
the operand may be. A term of `Instr` holds its operand at the width of its field, so every term passes the
check, as R111 says ("There are no reserved operand values"). -/

namespace Sys2Proof

/-- A line of a listing (R114): the instruction's format and the operand written after the mnemonic. -/
structure AsmLine where
  /-- The format of the instruction named. -/
  format : Format
  /-- The operand, if one is written. -/
  operand : Option Int
  deriving DecidableEq, Repr

/-- `v` fits `n` bits, read as signed or as unsigned (R114, formats I8, I16, I32). -/
def fitsEither (n : Nat) (v : Int) : Bool := decide (-(2 ^ (n - 1) : Int) ≤ v ∧ v < 2 ^ n)

/-- `v` is in the signed 16-bit range -32768 .. 32767 (R114, format F16). -/
def fitsSigned16 (v : Int) : Bool := decide (-32768 ≤ v ∧ v ≤ 32767)

/-- `v` is in the range 0 .. 65535 (R114, formats A16 and U16). -/
def fitsUnsigned16 (v : Int) : Bool := decide (0 ≤ v ∧ v ≤ 65535)

/-- The checks of R114 on one line: no operand for format N, and for every other format exactly one, in
its range. -/
def AsmLine.wellFormed (l : AsmLine) : Bool :=
  match l.format, l.operand with
  | .n, none => true
  | .n, some _ => false
  | _, none => false
  | .i8, some v => fitsEither 8 v
  | .i16, some v => fitsEither 16 v
  | .i32, some v => fitsEither 32 v
  | .f16, some v => fitsSigned16 v
  | .a16, some v => fitsUnsigned16 v
  | .u16, some v => fitsUnsigned16 v

/-- The operand an instruction is written with (R114): a frame offset as a signed number, every other
operand as an unsigned one. -/
def Instr.asmOperand : Instr → Option Int
  | .pushiB v => some v.toNat
  | .pushiW v => some v.toNat
  | .pushiD v => some v.toNat
  | .pushfB off => some off.toInt
  | .pushfW off => some off.toInt
  | .pushfD off => some off.toInt
  | .pushaB v => some v.toNat
  | .pushaW v => some v.toNat
  | .pushaD v => some v.toNat
  | .pushdB => none
  | .pushdW => none
  | .pushdD => none
  | .popfB off => some off.toInt
  | .popfW off => some off.toInt
  | .popfD off => some off.toInt
  | .popaB v => some v.toNat
  | .popaW v => some v.toNat
  | .popaD v => some v.toNat
  | .popdB => none
  | .popdW => none
  | .popdD => none
  | .addB => none
  | .addW => none
  | .addD => none
  | .subB => none
  | .subW => none
  | .subD => none
  | .mulB => none
  | .mulW => none
  | .mulD => none
  | .divB => none
  | .divW => none
  | .divD => none
  | .modB => none
  | .modW => none
  | .modD => none
  | .andB => none
  | .andW => none
  | .andD => none
  | .orB => none
  | .orW => none
  | .orD => none
  | .xorB => none
  | .xorW => none
  | .xorD => none
  | .shlB => none
  | .shlW => none
  | .shlD => none
  | .shrB => none
  | .shrW => none
  | .shrD => none
  | .jgzB v => some v.toNat
  | .jgzW v => some v.toNat
  | .jgzD v => some v.toNat
  | .jgezB v => some v.toNat
  | .jgezW v => some v.toNat
  | .jgezD v => some v.toNat
  | .jezB v => some v.toNat
  | .jezW v => some v.toNat
  | .jezD v => some v.toNat
  | .jnezB v => some v.toNat
  | .jnezW v => some v.toNat
  | .jnezD v => some v.toNat
  | .jmp v => some v.toNat
  | .call v => some v.toNat
  | .ret v => some v.toNat
  | .ecall v => some v.toNat
  | .sync => none
  | .async => none

/-- The line an instruction is written as. -/
def Instr.asmLine (i : Instr) : AsmLine := { format := i.format, operand := i.asmOperand }

/-- An instruction is well formed when its line passes R114's checks. -/
def Instr.wellFormed (i : Instr) : Bool := i.asmLine.wellFormed

end Sys2Proof
end

