-- ==== Sys2Proof/Decode.lean ====
section
/-! DEFINITION. From bytes to instructions and back (R100 to R103, R106, R110, R111): little-endian byte
lists, the opcode map, the decoder, which refuses by name, and the encoder. -/

namespace Sys2Proof

/-- The number a little-endian byte list spells (R74). -/
def leNat : List Byte → Nat
  | [] => 0
  | b :: bs => b.toNat + 256 * leNat bs

/-- The `k` little-endian bytes of a number, low byte first (R74). -/
def leBytes : Nat → Nat → List Byte
  | 0, _ => []
  | k + 1, v => BitVec.ofNat 8 v :: leBytes k (v / 256)

/-- One row of the opcode map (R110): the opcode byte, the format, and the instruction its operand makes.
The operand is given as a number of 32 bits: bytes 1 .. of the instruction, little-endian (R102). -/
structure OpRow where
  /-- The opcode byte. -/
  op : Byte
  /-- The format, which fixes the length (R101). -/
  format : Format
  /-- The instruction, from the operand's bits. -/
  build : DWord → Instr

/-- The rows of 40_stack_ops.md (R131 to R151). -/
def stackRows : List OpRow := [
  ⟨0x04, .i8, fun v => .pushiB (v.setWidth 8)⟩,
  ⟨0x05, .i16, fun v => .pushiW (v.setWidth 16)⟩,
  ⟨0x06, .i32, fun v => .pushiD v⟩,
  ⟨0x08, .f16, fun v => .pushfB (v.setWidth 16)⟩,
  ⟨0x09, .f16, fun v => .pushfW (v.setWidth 16)⟩,
  ⟨0x0A, .f16, fun v => .pushfD (v.setWidth 16)⟩,
  ⟨0x0C, .a16, fun v => .pushaB (v.setWidth 16)⟩,
  ⟨0x0D, .a16, fun v => .pushaW (v.setWidth 16)⟩,
  ⟨0x0E, .a16, fun v => .pushaD (v.setWidth 16)⟩,
  ⟨0x10, .n, fun _ => .pushdB⟩,
  ⟨0x11, .n, fun _ => .pushdW⟩,
  ⟨0x12, .n, fun _ => .pushdD⟩,
  ⟨0x14, .f16, fun v => .popfB (v.setWidth 16)⟩,
  ⟨0x15, .f16, fun v => .popfW (v.setWidth 16)⟩,
  ⟨0x16, .f16, fun v => .popfD (v.setWidth 16)⟩,
  ⟨0x18, .a16, fun v => .popaB (v.setWidth 16)⟩,
  ⟨0x19, .a16, fun v => .popaW (v.setWidth 16)⟩,
  ⟨0x1A, .a16, fun v => .popaD (v.setWidth 16)⟩,
  ⟨0x1C, .n, fun _ => .popdB⟩,
  ⟨0x1D, .n, fun _ => .popdW⟩,
  ⟨0x1E, .n, fun _ => .popdD⟩]

/-- The rows of 41_alu_ops.md (R162 to R191). -/
def aluRows : List OpRow := [
  ⟨0x20, .n, fun _ => .addB⟩,
  ⟨0x21, .n, fun _ => .addW⟩,
  ⟨0x22, .n, fun _ => .addD⟩,
  ⟨0x24, .n, fun _ => .subB⟩,
  ⟨0x25, .n, fun _ => .subW⟩,
  ⟨0x26, .n, fun _ => .subD⟩,
  ⟨0x28, .n, fun _ => .mulB⟩,
  ⟨0x29, .n, fun _ => .mulW⟩,
  ⟨0x2A, .n, fun _ => .mulD⟩,
  ⟨0x2C, .n, fun _ => .divB⟩,
  ⟨0x2D, .n, fun _ => .divW⟩,
  ⟨0x2E, .n, fun _ => .divD⟩,
  ⟨0x30, .n, fun _ => .modB⟩,
  ⟨0x31, .n, fun _ => .modW⟩,
  ⟨0x32, .n, fun _ => .modD⟩,
  ⟨0x34, .n, fun _ => .andB⟩,
  ⟨0x35, .n, fun _ => .andW⟩,
  ⟨0x36, .n, fun _ => .andD⟩,
  ⟨0x38, .n, fun _ => .orB⟩,
  ⟨0x39, .n, fun _ => .orW⟩,
  ⟨0x3A, .n, fun _ => .orD⟩,
  ⟨0x3C, .n, fun _ => .xorB⟩,
  ⟨0x3D, .n, fun _ => .xorW⟩,
  ⟨0x3E, .n, fun _ => .xorD⟩,
  ⟨0x40, .n, fun _ => .shlB⟩,
  ⟨0x41, .n, fun _ => .shlW⟩,
  ⟨0x42, .n, fun _ => .shlD⟩,
  ⟨0x44, .n, fun _ => .shrB⟩,
  ⟨0x45, .n, fun _ => .shrW⟩,
  ⟨0x46, .n, fun _ => .shrD⟩]

/-- The rows of 42_control.md and 43_calls.md (R200 to R214, R230, R240, R242). -/
def controlRows : List OpRow := [
  ⟨0x48, .a16, fun v => .jgzB (v.setWidth 16)⟩,
  ⟨0x49, .a16, fun v => .jgzW (v.setWidth 16)⟩,
  ⟨0x4A, .a16, fun v => .jgzD (v.setWidth 16)⟩,
  ⟨0x4C, .a16, fun v => .jgezB (v.setWidth 16)⟩,
  ⟨0x4D, .a16, fun v => .jgezW (v.setWidth 16)⟩,
  ⟨0x4E, .a16, fun v => .jgezD (v.setWidth 16)⟩,
  ⟨0x50, .a16, fun v => .jezB (v.setWidth 16)⟩,
  ⟨0x51, .a16, fun v => .jezW (v.setWidth 16)⟩,
  ⟨0x52, .a16, fun v => .jezD (v.setWidth 16)⟩,
  ⟨0x54, .a16, fun v => .jnezB (v.setWidth 16)⟩,
  ⟨0x55, .a16, fun v => .jnezW (v.setWidth 16)⟩,
  ⟨0x56, .a16, fun v => .jnezD (v.setWidth 16)⟩,
  ⟨0x60, .a16, fun v => .jmp (v.setWidth 16)⟩,
  ⟨0x61, .a16, fun v => .call (v.setWidth 16)⟩,
  ⟨0x62, .u16, fun v => .ret (v.setWidth 16)⟩,
  ⟨0x63, .u16, fun v => .ecall (v.setWidth 16)⟩,
  ⟨0x64, .n, fun _ => .sync⟩,
  ⟨0x65, .n, fun _ => .async⟩]

/-- The complete opcode map (R110). -/
def opRows : List OpRow := stackRows ++ aluRows ++ controlRows

/-- The row of an opcode byte; none for the 187 unassigned values (R111). -/
def findRow (op : Byte) : Option OpRow := opRows.find? (fun r => r.op == op)

/-- The length table `LEN` (R103); none for an unassigned opcode. -/
def lenOf (op : Byte) : Option Nat := (findRow op).map (fun r => r.format.length)

/-- Why bytes are not an instruction. -/
inductive DecodeError where
  /-- There is no opcode byte. -/
  | empty
  /-- The opcode byte is unassigned (R111). -/
  | illegalOpcode (op : Byte)
  /-- Fewer operand bytes than the format has (R101). -/
  | truncated (op : Byte)
  deriving DecidableEq, Repr

/-- Read one instruction from the front of a byte list; answer it with the bytes after it (R100 to R102). -/
def decode (bytes : List Byte) : Except DecodeError (Instr × List Byte) :=
  match bytes with
  | [] => .error .empty
  | op :: rest =>
    match findRow op with
    | none => .error (.illegalOpcode op)
    | some r =>
      if rest.length < r.format.length - 1 then .error (.truncated op)
      else .ok (r.build (BitVec.ofNat 32 (leNat (rest.take (r.format.length - 1)))),
        rest.drop (r.format.length - 1))

/-- The bytes of an instruction, from the encodings of R131 to R242. -/
def encode : Instr → List Byte
  | .pushiB v => [0x04, v]
  | .pushiW v => 0x05 :: leBytes 2 v.toNat
  | .pushiD v => 0x06 :: leBytes 4 v.toNat
  | .pushfB v => 0x08 :: leBytes 2 v.toNat
  | .pushfW v => 0x09 :: leBytes 2 v.toNat
  | .pushfD v => 0x0A :: leBytes 2 v.toNat
  | .pushaB v => 0x0C :: leBytes 2 v.toNat
  | .pushaW v => 0x0D :: leBytes 2 v.toNat
  | .pushaD v => 0x0E :: leBytes 2 v.toNat
  | .pushdB => [0x10]
  | .pushdW => [0x11]
  | .pushdD => [0x12]
  | .popfB v => 0x14 :: leBytes 2 v.toNat
  | .popfW v => 0x15 :: leBytes 2 v.toNat
  | .popfD v => 0x16 :: leBytes 2 v.toNat
  | .popaB v => 0x18 :: leBytes 2 v.toNat
  | .popaW v => 0x19 :: leBytes 2 v.toNat
  | .popaD v => 0x1A :: leBytes 2 v.toNat
  | .popdB => [0x1C]
  | .popdW => [0x1D]
  | .popdD => [0x1E]
  | .addB => [0x20]
  | .addW => [0x21]
  | .addD => [0x22]
  | .subB => [0x24]
  | .subW => [0x25]
  | .subD => [0x26]
  | .mulB => [0x28]
  | .mulW => [0x29]
  | .mulD => [0x2A]
  | .divB => [0x2C]
  | .divW => [0x2D]
  | .divD => [0x2E]
  | .modB => [0x30]
  | .modW => [0x31]
  | .modD => [0x32]
  | .andB => [0x34]
  | .andW => [0x35]
  | .andD => [0x36]
  | .orB => [0x38]
  | .orW => [0x39]
  | .orD => [0x3A]
  | .xorB => [0x3C]
  | .xorW => [0x3D]
  | .xorD => [0x3E]
  | .shlB => [0x40]
  | .shlW => [0x41]
  | .shlD => [0x42]
  | .shrB => [0x44]
  | .shrW => [0x45]
  | .shrD => [0x46]
  | .jgzB v => 0x48 :: leBytes 2 v.toNat
  | .jgzW v => 0x49 :: leBytes 2 v.toNat
  | .jgzD v => 0x4A :: leBytes 2 v.toNat
  | .jgezB v => 0x4C :: leBytes 2 v.toNat
  | .jgezW v => 0x4D :: leBytes 2 v.toNat
  | .jgezD v => 0x4E :: leBytes 2 v.toNat
  | .jezB v => 0x50 :: leBytes 2 v.toNat
  | .jezW v => 0x51 :: leBytes 2 v.toNat
  | .jezD v => 0x52 :: leBytes 2 v.toNat
  | .jnezB v => 0x54 :: leBytes 2 v.toNat
  | .jnezW v => 0x55 :: leBytes 2 v.toNat
  | .jnezD v => 0x56 :: leBytes 2 v.toNat
  | .jmp v => 0x60 :: leBytes 2 v.toNat
  | .call v => 0x61 :: leBytes 2 v.toNat
  | .ret v => 0x62 :: leBytes 2 v.toNat
  | .ecall v => 0x63 :: leBytes 2 v.toNat
  | .sync => [0x64]
  | .async => [0x65]

/-- The longest instruction has five bytes (R100). -/
def maxInstrLength : Nat := 5

/-- The bytes in which the host hands over an instruction of `nbits` bits: the low `nbits` bits of `w`, low
byte first (R101: "Field positions as bit ranges of the instruction seen as a little-endian number"), every
higher bit zero, up to the longest instruction. -/
def tableWordBytes (nbits w : Nat) : List Byte := leBytes maxInstrLength (w % 2 ^ nbits)

/-- The instruction the decoder reads from an instruction whose bits are `w`. -/
def decodeTableWord (nbits w : Nat) : Option Instr :=
  match decode (tableWordBytes nbits w) with
  | .ok (i, _) => some i
  | .error _ => none

end Sys2Proof
end

