-- ==== Sys2Proof/Config.lean ====
section
/-! DEFINITION. What an implementation fixes (the parameters of R7) and the free values (the bytes that the
spec leaves unspecified after reset). -/

namespace Sys2Proof

/-- The state of the LED (R53). -/
inductive Led where
  | on
  | off
  deriving DecidableEq, Repr

/-- The named parameters of R7. -/
structure Params where
  /-- `MEM_CAP`: capacity in bytes of the memory image. -/
  memCap : Nat
  /-- `N_THREADS`: number of thread records in the pool. -/
  nThreads : Nat
  /-- `N_BINS`: number of argument bins in the pool. -/
  nBins : Nat
  /-- `BIN_CAP`: data bytes per argument bin. -/
  binCap : Nat
  /-- `FRAME_CAP`: bytes of the receive frame buffer. -/
  frameCap : Nat
  /-- `TXRING_CAP`: bytes of the transmit ring. -/
  txringCap : Nat
  /-- `MAX_ACT_DEPTH`: most activations alive at once. -/
  maxActDepth : Nat
  /-- `RX_TIMEOUT_ENABLE`: whether the `RxTimeout` event exists. -/
  rxTimeoutEnable : Bool
  /-- `LED_RESET`: state of `led` after reset. -/
  ledReset : Led
  deriving DecidableEq, Repr

/-- The constraints of R7. -/
def Params.ok (p : Params) : Bool :=
  decide (8 ≤ p.memCap ∧ p.memCap ≤ 65535) && decide (1 ≤ p.nThreads ∧ p.nThreads ≤ 255) &&
  decide (1 ≤ p.nBins ∧ p.nBins ≤ 255) && decide (2 ≤ p.binCap ∧ p.binCap ≤ 65535) &&
  decide (4 ≤ p.frameCap ∧ p.frameCap ≤ 65535) && decide (6 ≤ p.txringCap ∧ p.txringCap ≤ 65535) &&
  decide (1 ≤ p.maxActDepth)

/-- The reference values of R7. -/
def Params.reference : Params where
  memCap := 1024
  nThreads := 4
  nBins := 4
  binCap := 32
  frameCap := 64
  txringCap := 64
  maxActDepth := 8
  rxTimeoutEnable := false
  ledReset := .off

/-- The storages whose bytes reset leaves unspecified (R60). -/
inductive Space where
  /-- The memory image `Mem` (R45). -/
  | mem
  /-- The data bytes of bin `b` (R42). -/
  | bin (b : Nat)
  /-- The frame buffer `fbuf` (R51). -/
  | fbuf
  /-- The transmit ring `ring` (R52). -/
  | ring
  deriving DecidableEq, Repr

/-- FREE VALUE (log 4): what a byte reads as that nothing has written since the last reset. It is applied to
the number of resets so far, the storage and the index: R85 ("a free draw or ... a fault, never ... zero"),
R401 ("a model must not assume they are zero or that they survive"), U19 to U22. -/
opaque Config.unspecifiedByte : Nat → Space → Nat → Byte

end Sys2Proof
end

