-- ==== Sys2Proof/Machine/State.lean ====
section
/-! DEFINITION. The state of the block (R30), the events it takes and gives (R62, R63), the reasons a step can
stop, and the state after reset (R60). -/

namespace Sys2Proof.Machine

/-- A storage of bytes by index: a list of cells with strictly rising indices (`Memory.wf`). A cell is listed
once something has written it since the last reset; an unlisted byte has no value of its own and reads as a
free value (log 4). -/
abbrev Memory := List Host.Cell

/-- A thread record `T[t]` (R32). -/
structure Thread where
  /-- Program counter (R33). -/
  pc : Addr
  /-- Stack pointer: the first free byte (R34). -/
  sp : Addr
  /-- Frame pointer: just above the running function's return frame (R35). -/
  fp : Addr
  /-- Lower bound of the stack region `[bottom, top)` (R32). -/
  bottom : Addr
  /-- Upper bound of the stack region `[bottom, top)` (R32). -/
  top : Addr
  /-- The record is in the pool (R32). -/
  free : Bool
  deriving DecidableEq, Repr

/-- An argument bin `B[b]` (R42). -/
structure Bin where
  /-- `data[0 .. BIN_CAP-1]`. -/
  data : Memory
  /-- Number of argument bytes. -/
  argSize : Word
  /-- Target method address. -/
  method : Addr
  /-- Originating thread; written and never read (R42, U16). -/
  origin : Option Nat
  /-- The bin is in the pool. -/
  free : Bool
  deriving DecidableEq, Repr

/-- What created an activation (R40). -/
inductive ActKind where
  /-- A dispatch (R244). -/
  | root
  /-- A SYNC instruction (R240). -/
  | sync
  deriving DecidableEq, Repr

/-- An activation (R40). -/
structure Activation where
  /-- `Root` or `Sync`. -/
  kind : ActKind
  /-- The thread it runs on. -/
  thread : Nat
  /-- The calling activation's frame pointer (`Sync`); 0 for `Root` (R244). -/
  savedFp : Addr
  /-- The target object, kept for `SyncDone` (`Sync`); 0 for `Root` (R244). -/
  obj : Word
  deriving DecidableEq, Repr

/-- The states of the frame receiver (R51, R265). -/
inductive FState where
  | idle
  | inFrame
  deriving DecidableEq, Repr

/-- The fault codes of R372, in the order of their numbers 1 to 12. -/
inductive FaultCode where
  | illegalOpcode
  | fetchOutOfCode
  | memOutOfBounds
  | stackOverflow
  | stackUnderflow
  | divideByZero
  | threadPoolExhausted
  | binPoolExhausted
  | binOverflow
  | illegalNative
  | activationDepthExceeded
  | loadWhileLive
  deriving DecidableEq, Repr

/-- The fault register `FAULT` (R54). -/
structure FaultReg where
  /-- A fault has stopped the block. -/
  valid : Bool
  /-- Which fault. -/
  code : FaultCode
  /-- The current thread when it was raised, if there was one. -/
  thread : Option Nat
  /-- That thread's program counter when it was raised. -/
  pc : Option Addr
  deriving DecidableEq, Repr

/-- The input events other than `Step` (R62). -/
inductive Input where
  /-- The reset pin (R400). -/
  | rst
  /-- The UART received a byte (R264). -/
  | rxByte (b : Byte)
  /-- The receive timeout (R274). -/
  | rxTimeout
  /-- The UART sent a byte (R354). -/
  | txComplete
  /-- The scheduler delivers the asynchronous call in bin `b` (R244). -/
  | dispatch (b : Nat)
  /-- The scheduler grants a synchronous call (R241). -/
  | syncEnter
  deriving DecidableEq, Repr

/-- One entry of the environment's order of events (R62, R80). -/
inductive Event where
  /-- The interpreter's turn (R104). -/
  | step
  /-- An input event. -/
  | input (e : Input)
  deriving DecidableEq, Repr

/-- The output events (R63). -/
inductive Output where
  | txByte (b : Byte)
  | schedAsync (obj : Word) (baseline deadline : DWord) (bin : Nat)
  | schedSync (obj : Word) (method : Addr) (thread : Nat)
  | syncDone (obj : Word)
  | activationDone (thread : Nat)
  | led (v : Led)
  | restart
  | faultOut (code : FaultCode)
  deriving DecidableEq, Repr

/-- The whole state (R30), and the model's own fields `params`, `resets`, `inputs`, `outputs`. -/
structure State where
  /-- `Mem` (R45). -/
  mem : Memory
  /-- `T` (R32). -/
  threads : List Thread
  /-- `threadFree`, first element next to be allocated (R39). -/
  threadFree : List Nat
  /-- `B` (R42). -/
  bins : List Bin
  /-- `binFree`, first element next to be allocated (R43). -/
  binFree : List Nat
  /-- `actStack`, the top of the stack first (R40). -/
  actStack : List Activation
  /-- `syncWait` (R41). -/
  syncWait : Bool
  /-- `imageValid` (R46). -/
  imageValid : Bool
  /-- `progStart` (R46). -/
  progStart : Addr
  /-- `externB` (R46). -/
  externB : Addr
  /-- `linkError` (R46). -/
  linkError : Bool
  /-- `cbValid` (R48). -/
  cbValid : Bool
  /-- `cbObj` (R48). -/
  cbObj : Word
  /-- `cbMethod` (R48). -/
  cbMethod : Addr
  /-- `confirmedReceived` (R49). -/
  confirmedReceived : Word
  /-- `totalLen` (R49). -/
  totalLen : Word
  /-- `escPending` (R50). -/
  escPending : Bool
  /-- `fstate` (R51). -/
  fstate : FState
  /-- `fbuf` (R51). -/
  fbuf : Memory
  /-- `flen` (R51). -/
  flen : Nat
  /-- `fovf` (R51). -/
  fovf : Bool
  /-- `ring` (R52). -/
  ring : Memory
  /-- `txHead` (R52). -/
  txHead : Nat
  /-- `txCount` (R52). -/
  txCount : Nat
  /-- `txActive` (R52). -/
  txActive : Bool
  /-- `led` (R53). -/
  led : Led
  /-- `FAULT` (R54). -/
  fault : FaultReg
  /-- The model's own: the parameters of R7, which no step changes (log 3). -/
  params : Params
  /-- The model's own: how many resets there have been, the index of the free values (log 5). -/
  resets : Nat
  /-- The model's own: the events to come, in the environment's order (log 1). -/
  inputs : List Event
  /-- The model's own: the output sequence of R63, oldest first (log 10). -/
  outputs : List Output
  deriving DecidableEq, Repr

/-- The one reason the model's step stops with a fault. The block's own faults (R371) are next states. -/
inductive Fault where
  /-- Raised by a meaning, or by `step`, when there is no current thread: `actStack` is empty, or its top
  names a thread record that does not exist. R38: `cur` "is undefined when `actStack` is empty, and then no
  instruction executes". `step` raises it only in states outside R64 (a). Safe: the model stops. -/
  | noCurrentThread
  deriving DecidableEq, Repr

/-- The reasons the model refuses an instruction. -/
inductive Refusal where
  /-- Raised by a refused arm of `exec`: the instruction has no meaning in the model yet. Safe: the model
  stops. -/
  | notModelled (mnemonic : String)
  deriving DecidableEq, Repr

/-- A thread record after reset (R60). -/
def Thread.reset : Thread where
  pc := 0
  sp := 0
  fp := 0
  bottom := 0
  top := 0
  free := true

/-- An argument bin after reset (R60); its data are unspecified. -/
def Bin.reset : Bin where
  data := []
  argSize := 0
  method := 0
  origin := none
  free := true

/-- The fault register after reset: `valid` is false (R60); the other fields are DESIGN CHOICE (log 7). -/
def FaultReg.reset : FaultReg where
  valid := false
  code := .illegalOpcode
  thread := none
  pc := none

/-- The state after reset of a block with parameters `p` (R60). -/
def State.boot (p : Params) : State where
  mem := []
  threads := List.replicate p.nThreads Thread.reset
  threadFree := List.range p.nThreads
  bins := List.replicate p.nBins Bin.reset
  binFree := List.range p.nBins
  actStack := []
  syncWait := false
  imageValid := false
  progStart := 0
  externB := 0
  linkError := false
  cbValid := false
  cbObj := 0
  cbMethod := 0
  confirmedReceived := 0
  totalLen := 0
  escPending := false
  fstate := .idle
  fbuf := []
  flen := 0
  fovf := false
  ring := []
  txHead := 0
  txCount := 0
  txActive := false
  led := p.ledReset
  fault := FaultReg.reset
  params := p
  resets := 0
  inputs := []
  outputs := []

/-- The machine right after reset (R60), with the reference parameters of R7 (log 3). -/
def State.reset : State := State.boot Params.reference

end Sys2Proof.Machine
end

