-- ==== Sys2Proof/Machine/Ops.lean ====
section
/-! DEFINITION. The named operations over storages, registers, stack, pools and events, and taking a fault. -/

namespace Sys2Proof.Machine

/-! ## Storages -/

/-- The byte listed at index `a`, if one is. -/
def Memory.get? : Memory → Nat → Option Byte
  | [], _ => none
  | (a', b) :: m, a => if a' = a then some b else Memory.get? m a

/-- Write one byte, keeping the indices strictly rising. -/
def Memory.put : Memory → Nat → Byte → Memory
  | [], a, b => [(a, b)]
  | (a', b') :: m, a, b =>
    if a < a' then (a, b) :: (a', b') :: m
    else if a' = a then (a, b) :: m
    else (a', b') :: Memory.put m a b

/-- Write bytes at rising indices from `a`. -/
def Memory.putAll : Memory → Nat → List Byte → Memory
  | m, _, [] => m
  | m, a, b :: bs => Memory.putAll (Memory.put m a b) (a + 1) bs

/-- All listed indices are above `lo` and strictly rising. -/
def Memory.wfAbove : Nat → Memory → Bool
  | _, [] => true
  | lo, (a, _) :: m => decide (lo < a) && Memory.wfAbove a m

/-- The canonical form: strictly rising indices. An unlisted byte has no value, so no entry can equal what an
unlisted byte holds, and equal storages are equal data. -/
def Memory.wf : Memory → Bool
  | [] => true
  | (a, _) :: m => Memory.wfAbove a m

/-- Every listed index is below `cap`. -/
def Memory.within (cap : Nat) (m : Memory) : Bool := m.all (fun c => decide (c.1 < cap))

/-- What the byte at `a` of storage `sp` reads as: the byte listed, or the free value of an unspecified byte
(R85, log 4). -/
def Memory.byteOr (resets : Nat) (sp : Space) (m : Memory) (a : Nat) : Byte :=
  match Memory.get? m a with
  | some b => b
  | none => Config.unspecifiedByte resets sp a

/-- The `k` bytes from index `a`. -/
def Memory.bytes (resets : Nat) (sp : Space) (m : Memory) : Nat → Nat → List Byte
  | _, 0 => []
  | a, k + 1 => Memory.byteOr resets sp m a :: Memory.bytes resets sp m (a + 1) k

/-! ## The memory image -/

/-- `Mem[a]` (R11). -/
def State.byteAt (s : State) (a : Nat) : Byte := Memory.byteOr s.resets .mem s.mem a

/-- `Mem[a .. a+k-1]`. -/
def State.readBytes (s : State) (a k : Nat) : List Byte := Memory.bytes s.resets .mem s.mem a k

/-- The `n`-bit little-endian value of `Mem[a .. a+n/8-1]` (R72, R74). -/
def State.valueAt (s : State) (n : Nat) (a : Nat) : BitVec n := BitVec.ofNat n (leNat (s.readBytes a (n / 8)))

/-- `Mem[a+i] <- bs[i]` for every `i`. -/
def State.writeBytes (s : State) (a : Nat) (bs : List Byte) : State :=
  { s with mem := Memory.putAll s.mem a bs }

/-- `MemRead(a, n / 8)` for `n` in 8, 16, 32 (R72). -/
def memRead (n : Nat) (a : Addr) (s : State) : Except FaultCode (BitVec n) :=
  if s.params.memCap < a.toNat + n / 8 then .error .memOutOfBounds else .ok (s.valueAt n a.toNat)

/-- `MemWrite(a, n / 8, v)` for `n` in 8, 16, 32 (R73). -/
def memWrite {n : Nat} (a : Addr) (v : BitVec n) (s : State) : Except FaultCode State :=
  if s.params.memCap < a.toNat + n / 8 then .error .memOutOfBounds
  else .ok (s.writeBytes a.toNat (leBytes (n / 8) v.toNat))

/-! ## Threads -/

/-- The thread record `T[t]`. -/
def State.thread (s : State) (t : Nat) : Thread := s.threads.getD t Thread.reset

/-- Replace the thread record `T[t]`. -/
def State.setThread (s : State) (t : Nat) (r : Thread) : State := { s with threads := s.threads.set t r }

/-- The current thread (R38): the thread of the top activation. -/
def State.cur? (s : State) : Option Nat :=
  match s.actStack with
  | [] => none
  | a :: _ => if a.thread < s.threads.length then some a.thread else none

/-- `pc <- v`. -/
def setPc (t : Nat) (v : Addr) (s : State) : State := s.setThread t { s.thread t with pc := v }

/-- `sp <- v`. -/
def setSp (t : Nat) (v : Addr) (s : State) : State := s.setThread t { s.thread t with sp := v }

/-- `fp <- v`. -/
def setFp (t : Nat) (v : Addr) (s : State) : State := s.setThread t { s.thread t with fp := v }

/-- `pc <- pc + len` (R13, R33). -/
def advance (t len : Nat) (s : State) : State := setPc t ((s.thread t).pc + BitVec.ofNat 16 len) s

/-! ## The stack of a thread -/

/-- `push_n(v)` (R36). -/
def push {n : Nat} (t : Nat) (v : BitVec n) (s : State) : Except FaultCode State :=
  if (s.thread t).top.toNat < (s.thread t).sp.toNat + n / 8 then .error .stackOverflow
  else do
    let s1 ← memWrite (s.thread t).sp v s
    .ok (setSp t ((s.thread t).sp + BitVec.ofNat 16 (n / 8)) s1)

/-- `pop_n()` (R37): the value and the state after it. -/
def pop (n : Nat) (t : Nat) (s : State) : Except FaultCode (BitVec n × State) :=
  if (s.thread t).sp.toNat < (s.thread t).bottom.toNat + n / 8 then .error .stackUnderflow
  else do
    let v ← memRead n ((s.thread t).sp - BitVec.ofNat 16 (n / 8)) s
    .ok (v, setSp t ((s.thread t).sp - BitVec.ofNat 16 (n / 8)) s)

/-- Push a return frame, the return address and then the caller's frame pointer, and let `fp <- sp` (R35,
R213). -/
def pushFrame (t : Nat) (ret savedFp : Word) (s : State) : Except FaultCode State := do
  let s1 ← push t ret s
  let s2 ← push t savedFp s1
  .ok (setFp t (s2.thread t).sp s2)

/-! ## Events -/

/-- `emit E` (R12, R63). -/
def emit (e : Output) (s : State) : State := { s with outputs := s.outputs ++ [e] }

/-! ## Pools -/

/-- The bin `B[b]`. -/
def State.bin (s : State) (b : Nat) : Bin := s.bins.getD b Bin.reset

/-- Replace the bin `B[b]`. -/
def State.setBin (s : State) (b : Nat) (r : Bin) : State := { s with bins := s.bins.set b r }

/-- The `k` first data bytes of bin `b`. -/
def State.binBytes (s : State) (b k : Nat) : List Byte := Memory.bytes s.resets (.bin b) (s.bin b).data 0 k

/-- Allocate a thread: the first of the free list (R39). -/
def allocThread (s : State) : Except FaultCode (Nat × State) :=
  match s.threadFree with
  | [] => .error .threadPoolExhausted
  | t :: rest => .ok (t, { s.setThread t { s.thread t with free := false } with threadFree := rest })

/-- Release a thread to the front of the free list (R39). -/
def releaseThread (t : Nat) (s : State) : State :=
  { s.setThread t { s.thread t with free := true } with threadFree := t :: s.threadFree }

/-- Allocate a bin: the first of the free list (R43). -/
def allocBin (s : State) : Except FaultCode (Nat × State) :=
  match s.binFree with
  | [] => .error .binPoolExhausted
  | b :: rest => .ok (b, { s.setBin b { s.bin b with free := false } with binFree := rest })

/-- Release a bin to the front of the free list (R43). -/
def releaseBin (b : Nat) (s : State) : State :=
  { s.setBin b { s.bin b with free := true } with binFree := b :: s.binFree }

/-- Issue an asynchronous call (R243): fill a fresh bin and emit `SchedAsync`. -/
def issueAsync (data : List Byte) (method : Addr) (origin : Option Nat) (obj : Word)
    (baseline deadline : DWord) (s : State) : Except FaultCode State := do
  let (b, s1) ← allocBin s
  .ok (emit (.schedAsync obj baseline deadline b)
    (s1.setBin b { s1.bin b with
      data := Memory.putAll (s1.bin b).data 0 data
      argSize := BitVec.ofNat 16 data.length
      method := method
      origin := origin }))

/-- The block is `Quiescent` (R44). -/
def State.quiescent (s : State) : Bool :=
  s.actStack.isEmpty && !s.syncWait && s.threads.all (fun r => r.free) && s.bins.all (fun r => r.free)

/-! ## Faults and reset -/

/-- The number of a fault code (R372). -/
def FaultCode.number : FaultCode → Nat
  | .illegalOpcode => 1
  | .fetchOutOfCode => 2
  | .memOutOfBounds => 3
  | .stackOverflow => 4
  | .stackUnderflow => 5
  | .divideByZero => 6
  | .threadPoolExhausted => 7
  | .binPoolExhausted => 8
  | .binOverflow => 9
  | .illegalNative => 10
  | .activationDepthExceeded => 11
  | .loadWhileLive => 12

/-- TAKING A FAULT: `raise F` from a step that began in `s` (R371). Everything the step did is undone; `FAULT`
records the code, the current thread and its program counter, and `FaultOut(F)` is emitted. -/
def raiseFault (f : FaultCode) (s : State) : State :=
  emit (.faultOut f) { s with fault :=
    { valid := true, code := f, thread := s.cur?, pc := s.cur?.map (fun t => (s.thread t).pc) } }

/-- The end of a step that began in `s` (R371): either all of it happens or only the fault is recorded. -/
def settle (s : State) (r : Except FaultCode State) : State :=
  match r with
  | .ok s' => s'
  | .error f => raiseFault f s

/-- THE ONE WAY OUT OF A FAULT (R371, R400): every piece of state takes its reset value (R60). The model's own
fields go on: the parameters and the events of the run stay, and the resets are counted. -/
def restart (s : State) : State :=
  { State.boot s.params with resets := s.resets + 1, inputs := s.inputs, outputs := s.outputs }

/-- Run one instruction's operation on the current thread and settle it (R38, R371). With no current thread no
instruction executes (R38): log 9. -/
def runInstr (s : State) (op : Nat → Except FaultCode State) : Host.Outcome State Fault Refusal :=
  match s.cur? with
  | none => .fault .noCurrentThread
  | some t => .next (settle s (op t))

/-- `Step` is enabled (R62, R104). -/
def State.stepEnabled (s : State) : Bool := !s.fault.valid && !s.actStack.isEmpty && !s.syncWait

end Sys2Proof.Machine
end

