-- ==== Sys2Proof/Machine/Alu.lean ====
section
/-! DEFINITION. The arithmetic, bitwise and shift instructions (41_alu_ops.md, R160 to R191). -/

namespace Sys2Proof.Machine

/-- ADD: the sum in the integers, narrowed (R161 a). -/
def aluAdd {n : Nat} (a b : BitVec n) : BitVec n := BitVec.ofNat n (a.toNat + b.toNat)

/-- SUB: the difference in the integers, narrowed (R161 a). -/
def aluSub {n : Nat} (a b : BitVec n) : BitVec n := BitVec.ofInt n ((a.toNat : Int) - (b.toNat : Int))

/-- MUL: the product in the integers, narrowed (R161 a). -/
def aluMul {n : Nat} (a b : BitVec n) : BitVec n := BitVec.ofNat n (a.toNat * b.toNat)

/-- DIV: signed, rounded toward zero, narrowed; a zero divisor faults (R161 b). -/
def aluDiv {n : Nat} (a b : BitVec n) : Except FaultCode (BitVec n) :=
  if b.toInt = 0 then .error .divideByZero else .ok (BitVec.ofInt n (Int.tdiv a.toInt b.toInt))

/-- MOD: `A - B * Q`, narrowed; a zero divisor faults (R161 b). -/
def aluMod {n : Nat} (a b : BitVec n) : Except FaultCode (BitVec n) :=
  if b.toInt = 0 then .error .divideByZero
  else .ok (BitVec.ofInt n (a.toInt - b.toInt * Int.tdiv a.toInt b.toInt))

/-- AND, bit by bit (R161 d). -/
def aluAnd {n : Nat} (a b : BitVec n) : BitVec n := a &&& b

/-- OR, bit by bit (R161 d). -/
def aluOr {n : Nat} (a b : BitVec n) : BitVec n := a ||| b

/-- XOR, bit by bit (R161 d). -/
def aluXor {n : Nat} (a b : BitVec n) : BitVec n := a ^^^ b

/-- SHL by the unsigned count `b`; a count of `n` or more gives 0 (R161 e, log 12). -/
def aluShl {n : Nat} (a b : BitVec n) : BitVec n :=
  if n ≤ b.toNat then 0 else BitVec.ofNat n (a.toNat * 2 ^ b.toNat)

/-- SHR by the unsigned count `b`, sign-propagating; a count of `n` or more gives 0 or all ones by the sign
(R161 e, log 12). -/
def aluShr {n : Nat} (a b : BitVec n) : BitVec n :=
  if n ≤ b.toNat then (if a.toInt < 0 then BitVec.ofNat n (2 ^ n - 1) else 0)
  else BitVec.ofInt n (a.toInt / (2 ^ b.toNat : Int))

/-- The shape shared by all thirty instructions (R160): pop `b`, pop `a`, push `f(a, b)`. -/
def binop {n : Nat} (f : BitVec n → BitVec n → Except FaultCode (BitVec n)) (s : State) :
    Host.Outcome State Fault Refusal :=
  runInstr s fun t => do
    let (b, s1) ← pop n t s
    let (a, s2) ← pop n t s1
    let r ← f a b
    let s3 ← push t r s2
    .ok (advance t Format.n.length s3)

/-- `ADD.B` (R162). -/
def execAddB (s : State) : Host.Outcome State Fault Refusal :=
  binop (n := 8) (fun a b => .ok (aluAdd a b)) s

/-- `ADD.W` (R163). -/
def execAddW (s : State) : Host.Outcome State Fault Refusal :=
  binop (n := 16) (fun a b => .ok (aluAdd a b)) s

/-- `ADD.D` (R164). -/
def execAddD (s : State) : Host.Outcome State Fault Refusal :=
  binop (n := 32) (fun a b => .ok (aluAdd a b)) s

/-- `SUB.B` (R165). -/
def execSubB (s : State) : Host.Outcome State Fault Refusal :=
  binop (n := 8) (fun a b => .ok (aluSub a b)) s

/-- `SUB.W` (R166). -/
def execSubW (s : State) : Host.Outcome State Fault Refusal :=
  binop (n := 16) (fun a b => .ok (aluSub a b)) s

/-- `SUB.D` (R167). -/
def execSubD (s : State) : Host.Outcome State Fault Refusal :=
  binop (n := 32) (fun a b => .ok (aluSub a b)) s

/-- `MUL.B` (R168). -/
def execMulB (s : State) : Host.Outcome State Fault Refusal :=
  binop (n := 8) (fun a b => .ok (aluMul a b)) s

/-- `MUL.W` (R169). -/
def execMulW (s : State) : Host.Outcome State Fault Refusal :=
  binop (n := 16) (fun a b => .ok (aluMul a b)) s

/-- `MUL.D` (R170). -/
def execMulD (s : State) : Host.Outcome State Fault Refusal :=
  binop (n := 32) (fun a b => .ok (aluMul a b)) s

/-- `DIV.B` (R171). -/
def execDivB (s : State) : Host.Outcome State Fault Refusal :=
  binop (n := 8) aluDiv s

/-- `DIV.W` (R172). -/
def execDivW (s : State) : Host.Outcome State Fault Refusal :=
  binop (n := 16) aluDiv s

/-- `DIV.D` (R173). -/
def execDivD (s : State) : Host.Outcome State Fault Refusal :=
  binop (n := 32) aluDiv s

/-- `MOD.B` (R174). -/
def execModB (s : State) : Host.Outcome State Fault Refusal :=
  binop (n := 8) aluMod s

/-- `MOD.W` (R175). -/
def execModW (s : State) : Host.Outcome State Fault Refusal :=
  binop (n := 16) aluMod s

/-- `MOD.D` (R176). -/
def execModD (s : State) : Host.Outcome State Fault Refusal :=
  binop (n := 32) aluMod s

/-- `AND.B` (R177). -/
def execAndB (s : State) : Host.Outcome State Fault Refusal :=
  binop (n := 8) (fun a b => .ok (aluAnd a b)) s

/-- `AND.W` (R178). -/
def execAndW (s : State) : Host.Outcome State Fault Refusal :=
  binop (n := 16) (fun a b => .ok (aluAnd a b)) s

/-- `AND.D` (R179). -/
def execAndD (s : State) : Host.Outcome State Fault Refusal :=
  binop (n := 32) (fun a b => .ok (aluAnd a b)) s

/-- `OR.B` (R180). -/
def execOrB (s : State) : Host.Outcome State Fault Refusal :=
  binop (n := 8) (fun a b => .ok (aluOr a b)) s

/-- `OR.W` (R181). -/
def execOrW (s : State) : Host.Outcome State Fault Refusal :=
  binop (n := 16) (fun a b => .ok (aluOr a b)) s

/-- `OR.D` (R182). -/
def execOrD (s : State) : Host.Outcome State Fault Refusal :=
  binop (n := 32) (fun a b => .ok (aluOr a b)) s

/-- `XOR.B` (R183). -/
def execXorB (s : State) : Host.Outcome State Fault Refusal :=
  binop (n := 8) (fun a b => .ok (aluXor a b)) s

/-- `XOR.W` (R184). -/
def execXorW (s : State) : Host.Outcome State Fault Refusal :=
  binop (n := 16) (fun a b => .ok (aluXor a b)) s

/-- `XOR.D` (R185). -/
def execXorD (s : State) : Host.Outcome State Fault Refusal :=
  binop (n := 32) (fun a b => .ok (aluXor a b)) s

/-- `SHL.B` (R186). -/
def execShlB (s : State) : Host.Outcome State Fault Refusal :=
  binop (n := 8) (fun a b => .ok (aluShl a b)) s

/-- `SHL.W` (R187). -/
def execShlW (s : State) : Host.Outcome State Fault Refusal :=
  binop (n := 16) (fun a b => .ok (aluShl a b)) s

/-- `SHL.D` (R188). -/
def execShlD (s : State) : Host.Outcome State Fault Refusal :=
  binop (n := 32) (fun a b => .ok (aluShl a b)) s

/-- `SHR.B` (R189). -/
def execShrB (s : State) : Host.Outcome State Fault Refusal :=
  binop (n := 8) (fun a b => .ok (aluShr a b)) s

/-- `SHR.W` (R190). -/
def execShrW (s : State) : Host.Outcome State Fault Refusal :=
  binop (n := 16) (fun a b => .ok (aluShr a b)) s

/-- `SHR.D` (R191). -/
def execShrD (s : State) : Host.Outcome State Fault Refusal :=
  binop (n := 32) (fun a b => .ok (aluShr a b)) s

end Sys2Proof.Machine
end

