-- ==== Sys2Proof/Machine/Codec.lean ====
section
/-! DEFINITION. The framing constants (R260) and the escaping codec (R261, R262). -/

namespace Sys2Proof.Machine

/-- The frame delimiter `DELIM` (R260). -/
def delimByte : Byte := 0x7E

/-- The escape octet `ESC` (R260). -/
def escByte : Byte := 0x7D

/-- The flip mask `FLIP`: "bit 5" (R260). -/
def flipMask : Byte := 0x20

/-- `H_INIT` (R260). -/
def hInit : Byte := 0x01

/-- `H_MORE` (R260). -/
def hMore : Byte := 0x02

/-- `H_ACK` (R260). -/
def hAck : Byte := 0x03

/-- `H_RESET` (R260). -/
def hReset : Byte := 0x04

/-- The wire form of one byte (R261). -/
def escapeByte (b : Byte) : List Byte :=
  if b = delimByte ∨ b = escByte then [escByte, b ^^^ flipMask] else [b]

/-- `encode(x)` (R261). -/
def wireEncode : List Byte → List Byte
  | [] => []
  | b :: bs => escapeByte b ++ wireEncode bs

/-- `decode(y)` from escape state `p`: the bytes put out and the escape state left (R262). -/
def wireDecode : Bool → List Byte → List Byte × Bool
  | p, [] => ([], p)
  | true, b :: bs =>
    let r := wireDecode false bs
    ((b ^^^ flipMask) :: r.1, r.2)
  | false, b :: bs =>
    if b = escByte then wireDecode true bs
    else
      let r := wireDecode false bs
      (b :: r.1, r.2)

/-- A frame as it is sent: opening delimiter, escaped body, closing delimiter (R235, R300). -/
def wireFrame (body : List Byte) : List Byte := delimByte :: (wireEncode body ++ [delimByte])

end Sys2Proof.Machine
end

