-- ==== Sys2Proof/Machine/Operands.lean ====
section
/-! DEFINITION. The operand forms of memory access (R130): frame-relative slot, absolute address, dereferenced
address. An immediate is its own value, and an absolute address is the operand itself (R102). -/

namespace Sys2Proof.Machine

/-- `sext_16(off16)` added to `fp` modulo 2^16 (R79, R102, R130). -/
def frameEa (fp : Addr) (off : Word) : Addr := BitVec.ofInt 16 ((fp.toNat : Int) + off.toInt)

/-- The effective address of a frame-relative slot of thread `t` (R130). -/
def State.slotEa (s : State) (t : Nat) (off : Word) : Addr := frameEa (s.thread t).fp off

/-- Read `n` bits at an address and push them, then advance (R134 to R139). -/
def pushFrom (n : Nat) (t : Nat) (ea : Addr) (len : Nat) (s : State) : Except FaultCode State := do
  let v ← memRead n ea s
  let s1 ← push t v s
  .ok (advance t len s1)

/-- Pop `n` bits and write them at an address, then advance (R143 to R148). -/
def popInto (n : Nat) (t : Nat) (ea : Addr) (len : Nat) (s : State) : Except FaultCode State := do
  let (v, s1) ← pop n t s
  let s2 ← memWrite ea v s1
  .ok (advance t len s2)

end Sys2Proof.Machine
end

