-- ==== Sys2Proof/Machine/Transmit.lean ====
section
/-! DEFINITION. The transmit ring (R350 to R355). -/

namespace Sys2Proof.Machine

/-- `ring[(i + j) mod cap] <- seq[j]` for every `j` (R352). -/
def ringPut (cap : Nat) : Memory → Nat → List Byte → Memory
  | m, _, [] => m
  | m, i, b :: bs => ringPut cap (Memory.put m (i % cap) b) (i + 1) bs

/-- `ring[i]`. -/
def State.ringByte (s : State) (i : Nat) : Byte := Memory.byteOr s.resets .ring s.ring i

/-- Take the oldest byte out of the ring and hand it to the UART (R352, R354). -/
def txShift (s : State) : State :=
  emit (.txByte (s.ringByte s.txHead))
    { s with txHead := (s.txHead + 1) % s.params.txringCap, txCount := s.txCount - 1 }

/-- `enqueue(seq)` (R352): none when it rejects, else the state after it. -/
def enqueue (seq : List Byte) (s : State) : Option State :=
  if s.params.txringCap < seq.length + s.txCount then none
  else
    let s1 := { s with
      ring := ringPut s.params.txringCap s.ring (s.txHead + s.txCount) seq
      txCount := s.txCount + seq.length }
    if s1.txActive then some s1 else some { txShift s1 with txActive := true }

/-- The `TxComplete` event (R354). -/
def txComplete (s : State) : State :=
  if !s.txActive then s
  else if 0 < s.txCount then txShift s
  else { s with txActive := false }

end Sys2Proof.Machine
end

