-- ==== Sys2Proof/Machine/Calls.lean ====
section
/-! DEFINITION. External, synchronous and asynchronous calls, and the two scheduler events (43_calls.md, R230 to
R244). -/

namespace Sys2Proof.Machine

/-- The four native functions (R231). -/
inductive Native where
  /-- Id 0 (R232). -/
  | toggleLed
  /-- Id 1 (R233). -/
  | setLed
  /-- Id 2 (R234). -/
  | registerCallback
  /-- Id 3 (R235). -/
  | transmit
  deriving DecidableEq, Repr

/-- The native of an id; none for an id of 4 or more (R230, R231). -/
def nativeOf (id : Nat) : Option Native :=
  match id with
  | 0 => some .toggleLed
  | 1 => some .setLed
  | 2 => some .registerCallback
  | 3 => some .transmit
  | _ => none

/-- `n`: the bytes the native's return drops (R231). -/
def Native.drops : Native → Nat
  | .toggleLed => 0
  | .setLed => 1
  | .registerCallback => 4
  | .transmit => 2

/-- `need`: the bytes required below the frame (R231). -/
def Native.needs : Native → Nat
  | .toggleLed => 0
  | .setLed => 1
  | .registerCallback => 4
  | .transmit => 3

/-- Set the LED and tell the driver (R232, R233). -/
def driveLed (v : Led) (s : State) : State := emit (.led v) { s with led := v }

/-- Native 0 (R232). -/
def nativeToggleLed (s : State) : State :=
  driveLed (match s.led with | .on => .off | .off => .on) s

/-- Native 1 (R233). -/
def nativeSetLed (fp : Addr) (s : State) : Except FaultCode State := do
  let v ← memRead 8 (fp - 5) s
  .ok (driveLed (if v.toNat = 0 then .on else .off) s)

/-- Native 2 (R234). -/
def nativeRegisterCallback (fp : Addr) (s : State) : Except FaultCode State := do
  let m ← memRead 16 (fp - 8) s
  let o ← memRead 16 (fp - 6) s
  .ok { s with cbObj := o, cbMethod := m, cbValid := true }

/-- Native 3 (R235): the result byte is 0 when the frame is queued, 1 when the ring is busy. -/
def nativeTransmit (fp : Addr) (s : State) : Except FaultCode State := do
  let a ← memRead 16 (fp - 6) s
  let l ← memRead 8 a s
  if s.params.memCap < a.toNat + 1 + l.toNat then .error .memOutOfBounds
  else
    match enqueue (wireFrame (s.readBytes (a.toNat + 1) l.toNat)) s with
    | some s1 => memWrite (fp - 7) (0 : Byte) s1
    | none => memWrite (fp - 7) (1 : Byte) s

/-- The native function itself (R232 to R235); `fp` is the frame pointer of its frame. -/
def runNative (nat : Native) (fp : Addr) (s : State) : Except FaultCode State :=
  match nat with
  | .toggleLed => .ok (nativeToggleLed s)
  | .setLed => nativeSetLed fp s
  | .registerCallback => nativeRegisterCallback fp s
  | .transmit => nativeTransmit fp s

/-- `ECALL` (R230): the frame of a CALL, the native, and the return of a RET, in one step. -/
def execEcall (id16 : Word) (s : State) : Host.Outcome State Fault Refusal :=
  runInstr s fun t =>
    let r := s.thread t
    match nativeOf id16.toNat with
    | none => .error .illegalNative
    | some nat =>
      if r.sp.toNat < r.bottom.toNat + nat.needs then .error .stackUnderflow
      else if r.top.toNat < r.sp.toNat + 4 then .error .stackOverflow
      else do
        let s1 ← pushFrame t (r.pc + BitVec.ofNat 16 Format.u16.length) r.fp s
        let fp := (s1.thread t).fp
        let s2 ← runNative nat fp s1
        let savedFp ← memRead 16 (fp - 2) s2
        let ret ← memRead 16 (fp - 4) s2
        .ok (setPc t ret (setFp t savedFp (setSp t (fp - 4 - BitVec.ofNat 16 nat.drops) s2)))

/-- `SYNC` (R240). The first free bin's metadata are written and it stays free. -/
def execSync (s : State) : Host.Outcome State Fault Refusal :=
  runInstr s fun t => do
    let (obj, s1) ← pop 16 t s
    let (method, s2) ← pop 16 t s1
    match s2.binFree with
    | [] => .error .binPoolExhausted
    | b0 :: _ =>
      if s2.actStack.length = s2.params.maxActDepth then .error .activationDepthExceeded
      else if (s2.thread t).top.toNat < (s2.thread t).sp.toNat + 4 then .error .stackOverflow
      else do
        let s3 := s2.setBin b0 { s2.bin b0 with method := method, argSize := 0, origin := some t }
        let s4 ← pushFrame t ((s.thread t).pc + BitVec.ofNat 16 Format.n.length) 0 s3
        .ok (emit (.schedSync obj method t)
          { setPc t method s4 with
            actStack := { kind := .sync, thread := t, savedFp := (s.thread t).fp, obj := obj } :: s4.actStack
            syncWait := true })

/-- The `SyncEnter` event (R241). -/
def syncEnter (s : State) : State := if s.syncWait then { s with syncWait := false } else s

/-- `ASYNC` (R242). -/
def execAsync (s : State) : Host.Outcome State Fault Refusal :=
  runInstr s fun t => do
    let (argSize, s1) ← pop 16 t s
    let (baseline, s2) ← pop 32 t s1
    let (deadline, s3) ← pop 32 t s2
    let (obj, s4) ← pop 16 t s3
    let (method, s5) ← pop 16 t s4
    let sp := (s5.thread t).sp
    if s5.params.binCap < argSize.toNat then .error .binOverflow
    else if sp.toNat < (s5.thread t).bottom.toNat + argSize.toNat then .error .stackUnderflow
    else do
      let data := s5.readBytes (sp.toNat - argSize.toNat) argSize.toNat
      let s6 ← issueAsync data method (some t) obj baseline deadline s5
      .ok (advance t Format.n.length (setSp t (sp - argSize) s6))

/-- The `Dispatch(b)` event (R244). The room tested is that of the allocated thread's own stack, as R244 says:
log 14 is about what R330's prose says of it where `per < 4`. -/
def dispatchBin (b : Nat) (s : State) : Except FaultCode State :=
  if s.params.nBins ≤ b ∨ (s.bin b).free ∨ s.syncWait then .ok s
  else do
    let (t, s1) ← (match s.threadFree with
      | [] => .error .threadPoolExhausted
      | _ => if s.actStack.length = s.params.maxActDepth then .error .activationDepthExceeded
        else allocThread s : Except FaultCode (Nat × State))
    let a := (s1.bin b).argSize
    let bottom := (s1.thread t).bottom
    if (s1.thread t).top.toNat < bottom.toNat + a.toNat + 4 then .error .stackOverflow
    else do
      let s2 := s1.writeBytes bottom.toNat (s1.binBytes b a.toNat)
      let s3 ← memWrite (bottom + a) (0 : Word) s2
      let s4 ← memWrite (bottom + a + 2) (0 : Word) s3
      let sp := bottom + a + 4
      let s5 := s4.setThread t { s4.thread t with sp := sp, fp := sp, pc := (s1.bin b).method }
      let s6 := releaseBin b s5
      .ok { s6 with actStack := { kind := .root, thread := t, savedFp := 0, obj := 0 } :: s6.actStack }

end Sys2Proof.Machine
end

