-- ==== Sys2Proof/Machine/Flags.lean ====
section
/-! DEFINITION. There are no flags, condition codes or predicate registers (R47). What stands in their place
are the four tests of the conditional jumps on a popped value (R201 to R212). -/

namespace Sys2Proof.Machine

/-- "greater-than-zero", signed (R201 to R203). -/
def isGz {n : Nat} (v : BitVec n) : Bool := decide (0 < v.toInt)

/-- "greater-or-equal-zero", signed (R204 to R206). -/
def isGez {n : Nat} (v : BitVec n) : Bool := decide (0 ≤ v.toInt)

/-- "equal-zero" (R207 to R209). -/
def isEz {n : Nat} (v : BitVec n) : Bool := decide (v.toNat = 0)

/-- "not-equal-zero" (R210 to R212). -/
def isNez {n : Nat} (v : BitVec n) : Bool := decide (v.toNat ≠ 0)

end Sys2Proof.Machine
end

