-- ==== Sys2Proof/Machine/Control.lean ====
section
/-! DEFINITION. Jumps, call and return (42_control.md, R200 to R214). -/

namespace Sys2Proof.Machine

/-- `JMP` (R200). -/
def execJmp (addr : Addr) (s : State) : Host.Outcome State Fault Refusal :=
  runInstr s fun t => .ok (setPc t addr s)

/-- The shape of the conditional jumps (R201 to R212): pop a value in every case, jump if the test holds. -/
def condJump (n : Nat) (test : BitVec n → Bool) (addr : Addr) (s : State) :
    Host.Outcome State Fault Refusal :=
  runInstr s fun t => do
    let (v, s1) ← pop n t s
    .ok (if test v then setPc t addr s1 else advance t Format.a16.length s1)

/-- `JGZ.B` (R201). -/
def execJgzB (addr : Addr) (s : State) : Host.Outcome State Fault Refusal :=
  condJump 8 isGz addr s

/-- `JGZ.W` (R202). -/
def execJgzW (addr : Addr) (s : State) : Host.Outcome State Fault Refusal :=
  condJump 16 isGz addr s

/-- `JGZ.D` (R203). -/
def execJgzD (addr : Addr) (s : State) : Host.Outcome State Fault Refusal :=
  condJump 32 isGz addr s

/-- `JGEZ.B` (R204). -/
def execJgezB (addr : Addr) (s : State) : Host.Outcome State Fault Refusal :=
  condJump 8 isGez addr s

/-- `JGEZ.W` (R205). -/
def execJgezW (addr : Addr) (s : State) : Host.Outcome State Fault Refusal :=
  condJump 16 isGez addr s

/-- `JGEZ.D` (R206). -/
def execJgezD (addr : Addr) (s : State) : Host.Outcome State Fault Refusal :=
  condJump 32 isGez addr s

/-- `JEZ.B` (R207). -/
def execJezB (addr : Addr) (s : State) : Host.Outcome State Fault Refusal :=
  condJump 8 isEz addr s

/-- `JEZ.W` (R208). -/
def execJezW (addr : Addr) (s : State) : Host.Outcome State Fault Refusal :=
  condJump 16 isEz addr s

/-- `JEZ.D` (R209). -/
def execJezD (addr : Addr) (s : State) : Host.Outcome State Fault Refusal :=
  condJump 32 isEz addr s

/-- `JNEZ.B` (R210). -/
def execJnezB (addr : Addr) (s : State) : Host.Outcome State Fault Refusal :=
  condJump 8 isNez addr s

/-- `JNEZ.W` (R211). -/
def execJnezW (addr : Addr) (s : State) : Host.Outcome State Fault Refusal :=
  condJump 16 isNez addr s

/-- `JNEZ.D` (R212). -/
def execJnezD (addr : Addr) (s : State) : Host.Outcome State Fault Refusal :=
  condJump 32 isNez addr s

/-- `CALL` (R213): one test for the whole frame, then the frame, then the jump. -/
def execCall (addr : Addr) (s : State) : Host.Outcome State Fault Refusal :=
  runInstr s fun t =>
    let r := s.thread t
    if r.top.toNat < r.sp.toNat + 4 then .error .stackOverflow
    else do
      let s1 ← pushFrame t (r.pc + BitVec.ofNat 16 Format.a16.length) r.fp s
      .ok (setPc t addr s1)

/-- Leave a function (R214): drop its frame and `n16` bytes of parameters, restore `fp`, go to `ret`. -/
def unwind (t : Nat) (n16 : Word) (newFp ret : Addr) (s : State) : Except FaultCode State :=
  let r := s.thread t
  let base := r.fp - 4
  if base.toNat < r.bottom.toNat + n16.toNat then .error .stackUnderflow
  else .ok (setPc t ret (setFp t newFp (setSp t (base - n16) s)))

/-- The end of the top activation at a sentinel (R214). A `Sync` one resumes its caller; a `Root` one releases
its thread, and `n16` and `ret` are ignored. The empty stack is never met: an instruction runs only with an
activation (R38). -/
def endActivation (t : Nat) (n16 : Word) (ret : Addr) (s : State) : Except FaultCode State :=
  match s.actStack with
  | [] => .ok s
  | a :: rest =>
    match a.kind with
    | .sync => do
      let s1 ← unwind t n16 a.savedFp ret s
      .ok (emit (.syncDone a.obj) { s1 with actStack := rest })
    | .root => .ok (emit (.activationDone a.thread) { releaseThread a.thread s with actStack := rest })

/-- `RET` (R214). -/
def execRet (n16 : Word) (s : State) : Host.Outcome State Fault Refusal :=
  runInstr s fun t =>
    let r := s.thread t
    if r.fp.toNat < r.bottom.toNat + 4 ∨ r.top.toNat < r.fp.toNat then .error .stackUnderflow
    else do
      let savedFp ← memRead 16 (r.fp - 2) s
      let ret ← memRead 16 (r.fp - 4) s
      if savedFp = 0 then endActivation t n16 ret s else unwind t n16 savedFp ret s

end Sys2Proof.Machine
end

