-- ==== Sys2Proof/Machine/StackOps.lean ====
section
/-! DEFINITION. The stack push and pop instructions (40_stack_ops.md, R130 to R151). -/

namespace Sys2Proof.Machine

/-- PUSHI (R131 to R133): push an `n`-bit immediate as it stands. -/
def pushImm {n : Nat} (v : BitVec n) (len : Nat) (s : State) : Host.Outcome State Fault Refusal :=
  runInstr s fun t => do
    let s1 ← push t v s
    .ok (advance t len s1)

/-- PUSHF (R134 to R136): push `n` bits of a frame-relative slot. -/
def pushSlot (n : Nat) (off : Word) (s : State) : Host.Outcome State Fault Refusal :=
  runInstr s fun t => pushFrom n t (s.slotEa t off) Format.f16.length s

/-- PUSHA (R137 to R139): push `n` bits at an absolute address. -/
def pushAbs (n : Nat) (addr : Addr) (s : State) : Host.Outcome State Fault Refusal :=
  runInstr s fun t => pushFrom n t addr Format.a16.length s

/-- PUSHD (R140 to R142): pop an address, push the `n` bits at it. -/
def pushDeref (n : Nat) (s : State) : Host.Outcome State Fault Refusal :=
  runInstr s fun t => do
    let (a, s1) ← pop 16 t s
    pushFrom n t a Format.n.length s1

/-- POPF (R143 to R145): pop `n` bits into a frame-relative slot. -/
def popSlot (n : Nat) (off : Word) (s : State) : Host.Outcome State Fault Refusal :=
  runInstr s fun t => popInto n t (s.slotEa t off) Format.f16.length s

/-- POPA (R146 to R148): pop `n` bits into an absolute address. -/
def popAbs (n : Nat) (addr : Addr) (s : State) : Host.Outcome State Fault Refusal :=
  runInstr s fun t => popInto n t addr Format.a16.length s

/-- POPD (R149 to R151): pop an address, then `n` bits, and store them at it. -/
def popDeref (n : Nat) (s : State) : Host.Outcome State Fault Refusal :=
  runInstr s fun t => do
    let (a, s1) ← pop 16 t s
    popInto n t a Format.n.length s1

/-- `PUSHI.B` (R131). -/
def execPushiB (imm : BitVec 8) (s : State) : Host.Outcome State Fault Refusal :=
  pushImm imm Format.i8.length s

/-- `PUSHI.W` (R132). -/
def execPushiW (imm : BitVec 16) (s : State) : Host.Outcome State Fault Refusal :=
  pushImm imm Format.i16.length s

/-- `PUSHI.D` (R133). -/
def execPushiD (imm : BitVec 32) (s : State) : Host.Outcome State Fault Refusal :=
  pushImm imm Format.i32.length s

/-- `PUSHF.B` (R134). -/
def execPushfB (off : Word) (s : State) : Host.Outcome State Fault Refusal :=
  pushSlot 8 off s

/-- `PUSHF.W` (R135). -/
def execPushfW (off : Word) (s : State) : Host.Outcome State Fault Refusal :=
  pushSlot 16 off s

/-- `PUSHF.D` (R136). -/
def execPushfD (off : Word) (s : State) : Host.Outcome State Fault Refusal :=
  pushSlot 32 off s

/-- `PUSHA.B` (R137). -/
def execPushaB (addr : Addr) (s : State) : Host.Outcome State Fault Refusal :=
  pushAbs 8 addr s

/-- `PUSHA.W` (R138). -/
def execPushaW (addr : Addr) (s : State) : Host.Outcome State Fault Refusal :=
  pushAbs 16 addr s

/-- `PUSHA.D` (R139). -/
def execPushaD (addr : Addr) (s : State) : Host.Outcome State Fault Refusal :=
  pushAbs 32 addr s

/-- `PUSHD.B` (R140). -/
def execPushdB (s : State) : Host.Outcome State Fault Refusal :=
  pushDeref 8 s

/-- `PUSHD.W` (R141). -/
def execPushdW (s : State) : Host.Outcome State Fault Refusal :=
  pushDeref 16 s

/-- `PUSHD.D` (R142). -/
def execPushdD (s : State) : Host.Outcome State Fault Refusal :=
  pushDeref 32 s

/-- `POPF.B` (R143). -/
def execPopfB (off : Word) (s : State) : Host.Outcome State Fault Refusal :=
  popSlot 8 off s

/-- `POPF.W` (R144). -/
def execPopfW (off : Word) (s : State) : Host.Outcome State Fault Refusal :=
  popSlot 16 off s

/-- `POPF.D` (R145). -/
def execPopfD (off : Word) (s : State) : Host.Outcome State Fault Refusal :=
  popSlot 32 off s

/-- `POPA.B` (R146). -/
def execPopaB (addr : Addr) (s : State) : Host.Outcome State Fault Refusal :=
  popAbs 8 addr s

/-- `POPA.W` (R147). -/
def execPopaW (addr : Addr) (s : State) : Host.Outcome State Fault Refusal :=
  popAbs 16 addr s

/-- `POPA.D` (R148). -/
def execPopaD (addr : Addr) (s : State) : Host.Outcome State Fault Refusal :=
  popAbs 32 addr s

/-- `POPD.B` (R149). -/
def execPopdB (s : State) : Host.Outcome State Fault Refusal :=
  popDeref 8 s

/-- `POPD.W` (R150). -/
def execPopdW (s : State) : Host.Outcome State Fault Refusal :=
  popDeref 16 s

/-- `POPD.D` (R151). -/
def execPopdD (s : State) : Host.Outcome State Fault Refusal :=
  popDeref 32 s

end Sys2Proof.Machine
end

