-- ==== Sys2Proof/Machine/Dispatch.lean ====
section
/-! DEFINITION. One arm per instruction. -/

namespace Sys2Proof.Machine

open Sys2Proof

/-- The meaning of an instruction at a state: what it does once the fetch of R104 has read it. -/
def exec (i : Instr) (s : State) : Host.Outcome State Fault Refusal :=
  match i with
  | .pushiB imm => Sys2Proof.Machine.execPushiB imm s
  | .pushiW imm => Sys2Proof.Machine.execPushiW imm s
  | .pushiD imm => Sys2Proof.Machine.execPushiD imm s
  | .pushfB off => Sys2Proof.Machine.execPushfB off s
  | .pushfW off => Sys2Proof.Machine.execPushfW off s
  | .pushfD off => Sys2Proof.Machine.execPushfD off s
  | .pushaB addr => Sys2Proof.Machine.execPushaB addr s
  | .pushaW addr => Sys2Proof.Machine.execPushaW addr s
  | .pushaD addr => Sys2Proof.Machine.execPushaD addr s
  | .pushdB => Sys2Proof.Machine.execPushdB s
  | .pushdW => Sys2Proof.Machine.execPushdW s
  | .pushdD => Sys2Proof.Machine.execPushdD s
  | .popfB off => Sys2Proof.Machine.execPopfB off s
  | .popfW off => Sys2Proof.Machine.execPopfW off s
  | .popfD off => Sys2Proof.Machine.execPopfD off s
  | .popaB addr => Sys2Proof.Machine.execPopaB addr s
  | .popaW addr => Sys2Proof.Machine.execPopaW addr s
  | .popaD addr => Sys2Proof.Machine.execPopaD addr s
  | .popdB => Sys2Proof.Machine.execPopdB s
  | .popdW => Sys2Proof.Machine.execPopdW s
  | .popdD => Sys2Proof.Machine.execPopdD s
  | .addB => Sys2Proof.Machine.execAddB s
  | .addW => Sys2Proof.Machine.execAddW s
  | .addD => Sys2Proof.Machine.execAddD s
  | .subB => Sys2Proof.Machine.execSubB s
  | .subW => Sys2Proof.Machine.execSubW s
  | .subD => Sys2Proof.Machine.execSubD s
  | .mulB => Sys2Proof.Machine.execMulB s
  | .mulW => Sys2Proof.Machine.execMulW s
  | .mulD => Sys2Proof.Machine.execMulD s
  | .divB => Sys2Proof.Machine.execDivB s
  | .divW => Sys2Proof.Machine.execDivW s
  | .divD => Sys2Proof.Machine.execDivD s
  | .modB => Sys2Proof.Machine.execModB s
  | .modW => Sys2Proof.Machine.execModW s
  | .modD => Sys2Proof.Machine.execModD s
  | .andB => Sys2Proof.Machine.execAndB s
  | .andW => Sys2Proof.Machine.execAndW s
  | .andD => Sys2Proof.Machine.execAndD s
  | .orB => Sys2Proof.Machine.execOrB s
  | .orW => Sys2Proof.Machine.execOrW s
  | .orD => Sys2Proof.Machine.execOrD s
  | .xorB => Sys2Proof.Machine.execXorB s
  | .xorW => Sys2Proof.Machine.execXorW s
  | .xorD => Sys2Proof.Machine.execXorD s
  | .shlB => Sys2Proof.Machine.execShlB s
  | .shlW => Sys2Proof.Machine.execShlW s
  | .shlD => Sys2Proof.Machine.execShlD s
  | .shrB => Sys2Proof.Machine.execShrB s
  | .shrW => Sys2Proof.Machine.execShrW s
  | .shrD => Sys2Proof.Machine.execShrD s
  | .jgzB addr => Sys2Proof.Machine.execJgzB addr s
  | .jgzW addr => Sys2Proof.Machine.execJgzW addr s
  | .jgzD addr => Sys2Proof.Machine.execJgzD addr s
  | .jgezB addr => Sys2Proof.Machine.execJgezB addr s
  | .jgezW addr => Sys2Proof.Machine.execJgezW addr s
  | .jgezD addr => Sys2Proof.Machine.execJgezD addr s
  | .jezB addr => Sys2Proof.Machine.execJezB addr s
  | .jezW addr => Sys2Proof.Machine.execJezW addr s
  | .jezD addr => Sys2Proof.Machine.execJezD addr s
  | .jnezB addr => Sys2Proof.Machine.execJnezB addr s
  | .jnezW addr => Sys2Proof.Machine.execJnezW addr s
  | .jnezD addr => Sys2Proof.Machine.execJnezD addr s
  | .jmp addr => Sys2Proof.Machine.execJmp addr s
  | .call addr => Sys2Proof.Machine.execCall addr s
  | .ret n16 => Sys2Proof.Machine.execRet n16 s
  | .ecall id16 => Sys2Proof.Machine.execEcall id16 s
  | .sync => Sys2Proof.Machine.execSync s
  | .async => Sys2Proof.Machine.execAsync s

end Sys2Proof.Machine
end

