-- ==== Sys2Proof/Machine/Fetch.lean ====
section
/-! DEFINITION. The fetch and decode of R104, and the state in which the host has one instruction run. -/

namespace Sys2Proof.Machine

/-- Fetch and decode the instruction at `pc`, with the tests of R104 in their order. -/
def fetch (pc : Addr) (s : State) : Except FaultCode Instr :=
  if !s.imageValid then .error .fetchOutOfCode
  else if pc.toNat < s.progStart.toNat then .error .fetchOutOfCode
  else if s.externB.toNat ≤ pc.toNat then .error .fetchOutOfCode
  else
    match lenOf (s.byteAt pc.toNat) with
    | none => .error .illegalOpcode
    | some len =>
      if s.externB.toNat < pc.toNat + len then .error .fetchOutOfCode
      else
        match decode (s.readBytes pc.toNat len) with
        | .ok (i, _) => .ok i
        | .error _ => .error .illegalOpcode

/-- The stack regions of R330 for a program that ends at `xb`: contiguous in thread order, the remainder
attached to the first. DEDUCED (log 14): thread 0 has `per + rem` bytes, as R330's pseudocode says, and so may have
room for a dispatch where `per < 4`, of which R330's prose says that "no dispatch can succeed". -/
def carvedThread (p : Params) (xb t : Nat) : Thread :=
  let per := (p.memCap - xb) / p.nThreads
  let rem := (p.memCap - xb) % p.nThreads
  let bottom := if t = 0 then xb else xb + rem + per * t
  { pc := 0
    sp := BitVec.ofNat 16 bottom
    fp := 0
    bottom := BitVec.ofNat 16 bottom
    top := BitVec.ofNat 16 (xb + rem + per * (t + 1))
    free := true }

/-- All thread records as a link leaves them (R330). -/
def carvedThreads (p : Params) (xb : Nat) : List Thread := (List.range p.nThreads).map (carvedThread p xb)

/-- The bytes of arguments in the root call that `State.runnable` stands for. -/
def standInArgs : Nat := 12

/-- The bytes above the stack pointer that the stand-in lists as zero, of all that a link zeroes (R330). -/
def standInRoom : Nat := 4

/-- Stands for a load, a link and a dispatch (R402, log 11): the program section is `[0, 5)`, the stacks are
carved above it, and thread 0 runs a root activation whose call had twelve argument bytes of zero; of the zeroed
stack above it four bytes are listed. A block that has a current thread already is left as it is. -/
def State.runnable (s : State) : State :=
  match s.cur? with
  | some _ => s
  | none =>
    let xb := maxInstrLength
    let sp := BitVec.ofNat 16 (xb + standInArgs + 4)
    let s1 := { s with
      threads := carvedThreads s.params xb
      threadFree := (List.range s.params.nThreads).drop 1
      actStack := [{ kind := .root, thread := 0, savedFp := 0, obj := 0 }]
      imageValid := true
      progStart := 0
      externB := BitVec.ofNat 16 xb }
    (s1.setThread 0 { s1.thread 0 with sp := sp, fp := sp, free := false }).writeBytes xb
      (List.replicate (standInArgs + 4 + standInRoom) 0)

/-- Place bytes at the program counter of the current thread and make that range fetchable: `progStart` at or
below it, `externB` at or above its end. A program counter with less than an instruction's room below 2^16 is
first set to 0. Nothing else of the block but what keeps `Step` from running is changed: `syncWait`, a fault,
and the events to come. -/
def State.placeAtPc (s : State) (bytes : List Byte) : State :=
  match s.cur? with
  | none => s
  | some t =>
    let old := (s.thread t).pc
    let pc := if old.toNat + maxInstrLength ≤ 65535 then old else 0
    let s1 := setPc t pc s
    let s2 := s1.writeBytes pc.toNat bytes
    { s2 with
      imageValid := true
      progStart := if pc.toNat < s.progStart.toNat then pc else s.progStart
      externB := if s.externB.toNat < pc.toNat + maxInstrLength then pc + BitVec.ofNat 16 maxInstrLength
        else s.externB
      syncWait := false
      fault := { s.fault with valid := false }
      inputs := [] }

end Sys2Proof.Machine
end

