-- ==== Sys2Proof/Machine/Loader.lean ====
section
/-! DEFINITION. The program loader and linker (46_loader_linker.md, R320 to R332). -/

namespace Sys2Proof.Machine

/-- Length of the program header (R6, R321). -/
def headerLength : Nat := 8

/-- The shift (R322): `Mem[i] <- Mem[i + 8]` for `i` from `i` upward, `k` bytes. -/
def shiftImage : Nat → Nat → State → State
  | _, 0, s => s
  | i, k + 1, s => shiftImage (i + 1) k (s.writeBytes i [s.byteAt (i + headerLength)])

/-- The name strings of the natives (R231, R327), as ASCII bytes, with their ids. -/
def nativeNames : List (List Byte × Nat) := [
  ([0x74, 0x6F, 0x67, 0x67, 0x6C, 0x65, 0x4C, 0x65, 0x64], 0),
  ([0x73, 0x65, 0x74, 0x4C, 0x65, 0x64], 1),
  ([0x72, 0x65, 0x67, 0x69, 0x73, 0x74, 0x65, 0x72, 0x43, 0x61, 0x6C, 0x6C, 0x62, 0x61, 0x63, 0x6B], 2),
  ([0x74, 0x72, 0x61, 0x6E, 0x73, 0x6D, 0x69, 0x74], 3)]

/-- The id of a name (R327). -/
def nativeIdOf (name : List Byte) : Option Nat := (nativeNames.find? (fun r => r.1 == name)).map Prod.snd

/-- The name at `t`, up to the first zero byte, within the next `k` bytes (R327); none if there is no zero
byte. -/
def nameAt : Nat → Nat → State → Option (List Byte)
  | _, 0, _ => none
  | t, k + 1, s =>
    if s.byteAt t = 0 then some [] else (nameAt (t + 1) k s).map (fun bs => s.byteAt t :: bs)

/-- `Resolve(p, t)` (R327): none is a link error. -/
def resolve (p t n : Nat) (s : State) : Option State :=
  if n ≤ t then none
  else
    match nameAt t (n - t) s with
    | none => none
    | some name =>
      match nativeIdOf name with
      | none => none
      | some id => some (s.writeBytes p [0x63, BitVec.ofNat 8 id, 0x00])

/-- The walk (R325) from `p` to `xb`, with `fuel` at least the bytes left. The state is the one reached; the
flag is false at a link error, and the CALLs resolved before it stay resolved (R332). -/
def linkWalk (xb n : Nat) : Nat → Nat → State → State × Bool
  | 0, p, s => (s, decide (xb ≤ p))
  | fuel + 1, p, s =>
    if xb ≤ p then (s, true)
    else
      let op := s.byteAt p
      match lenOf op with
      | none => (s, false)
      | some len =>
        if op = 0x63 then (s, false)
        else if xb < p + len then (s, false)
        else if op = 0x61 then
          let t := leNat (s.readBytes (p + 1) 2)
          if xb ≤ t then
            match resolve p t n s with
            | none => (s, false)
            | some s' => linkWalk xb n fuel (p + len) s'
          else linkWalk xb n fuel (p + len) s
        else linkWalk xb n fuel (p + len) s

/-- A link error (R332): the image is not runnable, the load ends, the block goes on. -/
def linkFailed (s : State) : State := { s with imageValid := false, linkError := true }

/-- The stack carve (R330): thread records, free list, zeroed stacks. -/
def carveStacks (xb : Nat) (s : State) : State :=
  { s with
    threads := carvedThreads s.params xb
    threadFree := List.range s.params.nThreads
    mem := Memory.putAll s.mem xb (List.replicate (s.params.memCap - xb) 0) }

/-- Publish the image and schedule its entry point (R331). -/
def publish (eo : Word) (ps ep xb : Nat) (s : State) : Except FaultCode State :=
  issueAsync [] (BitVec.ofNat 16 ep) none eo 0 0
    { s with
      progStart := BitVec.ofNat 16 ps
      externB := BitVec.ofNat 16 xb
      imageValid := true
      linkError := false }

/-- The header tests of R323, with `n` the length of the body. -/
def headerOk (ps ep xb n memCap : Nat) : Bool :=
  decide (ps ≤ xb) && decide (xb ≤ n) && decide (xb ≤ memCap) && decide (ps ≤ ep) && decide (ep < xb)

/-- `Load()` (R320). -/
def load (s : State) : Except FaultCode State :=
  if s.totalLen.toNat < headerLength then .ok (linkFailed s)
  else
    let eo := s.valueAt 16 0
    let ps := (s.valueAt 16 2).toNat
    let ep := (s.valueAt 16 4).toNat
    let xb := (s.valueAt 16 6).toNat
    let n := s.totalLen.toNat - headerLength
    let s1 := shiftImage 0 n s
    if !headerOk ps ep xb n s.params.memCap then .ok (linkFailed s1)
    else
      match linkWalk xb n xb ps s1 with
      | (s2, false) => .ok (linkFailed s2)
      | (s2, true) => publish eo ps ep xb (carveStacks xb s2)

end Sys2Proof.Machine
end

