-- ==== Sys2Proof/Machine/Segment.lean ====
section
/-! DEFINITION. The reliable segment transfer protocol (45_segment_protocol.md, R290 to R300). A frame is the
list of its unescaped bytes. -/

namespace Sys2Proof.Machine

/-- `field16` (R290). -/
def frameField (f : List Byte) : Nat := leNat [f.getD 1 0, f.getD 2 0]

/-- The image bytes `f[3 .. L-2]` (R290). -/
def frameData (f : List Byte) : List Byte := (f.drop 3).dropLast

/-- The accumulator of R291 over `f[1 .. L-2]`, 8 bits. -/
def frameSum (f : List Byte) : Byte := BitVec.ofNat 8 (((f.drop 1).dropLast.map BitVec.toNat).sum)

/-- The trailing checksum `f[L-1]` (R290). -/
def frameCk (f : List Byte) : Byte := f.getD (f.length - 1) 0

/-- The frame is long enough (R290) and its checksum is right (R291). -/
def segmentOk (f : List Byte) : Bool := decide (4 ≤ f.length) && decide (frameSum f = frameCk f)

/-- The unescaped acknowledgment (R300). -/
def ackBody (confirmed : Word) : List Byte := hAck :: (leBytes 2 confirmed.toNat ++ [0])

/-- `SendAck()` (R300): an acknowledgment that the ring rejects is lost. -/
def sendAck (s : State) : State :=
  match enqueue (wireFrame (ackBody s.confirmedReceived)) s with
  | some s' => s'
  | none => s

/-- Write a segment's bytes, confirm them, acknowledge, and load the image if it is complete (R296 to R298). -/
def acceptData (off : Nat) (data : List Byte) (s : State) : Except FaultCode State :=
  let s1 := sendAck { s.writeBytes off data with confirmedReceived := BitVec.ofNat 16 (off + data.length) }
  if s1.confirmedReceived = s1.totalLen then load s1 else .ok s1

/-- An init segment whose checksum is right (R296). -/
def initSegment (f : List Byte) (s : State) : Except FaultCode State :=
  let total := frameField f
  let data := frameData f
  if s.params.memCap < total then .ok s
  else if total < data.length then .ok s
  else if !s.quiescent then .error .loadWhileLive
  else acceptData 0 data
    { s with
      confirmedReceived := 0
      totalLen := BitVec.ofNat 16 total
      imageValid := false
      linkError := false
      cbValid := false }

/-- A continuation segment whose checksum is right (R297). -/
def moreSegment (f : List Byte) (s : State) : Except FaultCode State :=
  let off := frameField f
  let data := frameData f
  if s.confirmedReceived.toNat < off then .ok s
  else if off + data.length ≤ s.confirmedReceived.toNat then .ok (sendAck s)
  else if s.totalLen.toNat < off + data.length then .ok s
  else acceptData off data s

end Sys2Proof.Machine
end

