-- ==== Sys2Proof/Machine/Framer.lean ====
section
/-! DEFINITION. The frame receiver and the classification of frames (44_codec_framer.md, R264 to R274). -/

namespace Sys2Proof.Machine

/-- `fbuf[0 .. flen-1]`. -/
def State.frame (s : State) : List Byte := Memory.bytes s.resets .fbuf s.fbuf 0 s.flen

/-- A reset frame (R272). -/
def resetFrame (s : State) : State := emit .restart (restart s)

/-- An application frame (R273). -/
def applicationFrame (f : List Byte) (s : State) : Except FaultCode State :=
  let payload := f.drop 1
  if !s.cbValid then .ok s
  else if s.params.binCap < payload.length + 2 then .ok s
  else issueAsync (payload ++ leBytes 2 payload.length) s.cbMethod none s.cbObj 0 0 s

/-- `FrameComplete(f)` (R270): classify by the first byte alone. -/
def frameComplete (f : List Byte) (s : State) : Except FaultCode State :=
  match f with
  | [] => .ok s
  | h :: _ =>
    if h = hInit then (if segmentOk f then initSegment f s else .ok s)
    else if h = hMore then (if segmentOk f then moreSegment f s else .ok s)
    else if h = hReset then .ok (resetFrame s)
    else applicationFrame f s

/-- `Data(d)` (R264). -/
def rxData (d : Byte) (s : State) : State :=
  match s.fstate with
  | .idle => s
  | .inFrame =>
    if s.flen < s.params.frameCap then { s with fbuf := Memory.put s.fbuf s.flen d, flen := s.flen + 1 }
    else { s with fovf := true }

/-- `Delim()` (R264). -/
def rxDelim (s : State) : Except FaultCode State :=
  match s.fstate with
  | .idle => .ok { s with fstate := .inFrame, flen := 0, fovf := false }
  | .inFrame => do
    let s1 := { s with fstate := .idle }
    let s2 ← (if s.flen = 0 then .ok s1 else if s.fovf then .ok s1 else frameComplete s.frame s1)
    .ok { s2 with flen := 0, fovf := false }

/-- The `RxByte(b)` event (R264). -/
def rxByte (b : Byte) (s : State) : Except FaultCode State :=
  if s.escPending then .ok (rxData (b ^^^ flipMask) { s with escPending := false })
  else if b = escByte then .ok { s with escPending := true }
  else if b = delimByte then rxDelim s
  else .ok (rxData b s)

/-- The `RxTimeout` event (R274), which exists only when `RX_TIMEOUT_ENABLE` is true; else it is ignored
(log 8). -/
def rxTimeout (s : State) : State :=
  if !s.params.rxTimeoutEnable then s
  else
    match s.fstate with
    | .inFrame => { s with fstate := .idle, flen := 0, fovf := false, escPending := false }
    | .idle => { s with escPending := false }

end Sys2Proof.Machine
end

