-- ==== Sys2Proof/Machine/Events.lean ====
section
/-! DEFINITION. The input events as steps (R62, R371, R400). -/

namespace Sys2Proof.Machine

/-- What an input event other than `Rst` does when no fault has stopped the block. -/
def handleInput (e : Input) (s : State) : Except FaultCode State :=
  match e with
  | .rst => .ok (restart s)
  | .rxByte b => rxByte b s
  | .rxTimeout => .ok (rxTimeout s)
  | .txComplete => .ok (txComplete s)
  | .dispatch b => dispatchBin b s
  | .syncEnter => .ok (syncEnter s)

/-- One input event as one atomic step. While `FAULT.valid` every event but `Rst` is ignored (R371, R400). -/
def inputEvent (e : Input) (s : State) : State :=
  if s.fault.valid ∧ e ≠ .rst then s else settle s (handleInput e s)

end Sys2Proof.Machine
end

