-- ==== Sys2Proof/Machine/Step.lean ====
section
/-! DEFINITION. One step of the block: the next event of the environment's order, or, when none is listed, the
interpreter's turn (R62, R80, log 1). -/

namespace Sys2Proof.Machine

/-- The `Step` event (R104). Where it is not enabled the block is idle and nothing changes (log 2). -/
def stepEvent (s : State) : Host.Outcome State Fault Refusal :=
  if s.stepEnabled then
    match s.cur? with
    | none => .fault .noCurrentThread
    | some t =>
      match fetch (s.thread t).pc s with
      | .error f => .next (raiseFault f s)
      | .ok i => exec i s
  else .next s

/-- One step. -/
def step (s : State) : Host.Outcome State Fault Refusal :=
  match s.inputs with
  | [] => stepEvent s
  | .step :: rest => stepEvent { s with inputs := rest }
  | .input e :: rest => .next (inputEvent e { s with inputs := rest })

/-- `s` with the instruction whose bits are `w` where `step` fetches next (log 11). -/
def State.withFetchWord (s : State) (nbits w : Nat) : State := s.runnable.placeAtPc (tableWordBytes nbits w)

end Sys2Proof.Machine
end

