-- ==== Sys2Proof/Safety.lean ====
section
/-! DEFINITION. What counts as a safe run, and the terms in which claims are made: what an instruction leaves,
when it faults, and the invariants of the block (R64, R299, R350). -/

namespace Sys2Proof.Machine

/-- No fault has stopped the block. -/
abbrev State.Alive (s : State) : Prop := s.fault.valid = false

/-- A safe step: it answers a next state, and no fault has stopped the block there. -/
def SafeStep (s : State) : Prop := ∃ s', step s = .next s' ∧ s'.Alive

/-! ## One instruction -/

/-- Thread `t` is current and its stack pointer lies in its stack, and that in the memory image (R64 b). -/
abbrev Ready (s : State) (t : Nat) : Prop :=
  s.cur? = some t ∧ (s.thread t).bottom.toNat ≤ (s.thread t).sp.toNat ∧
  (s.thread t).sp.toNat ≤ (s.thread t).top.toNat ∧ (s.thread t).top.toNat ≤ s.params.memCap

/-- From `s` to `s'`, thread `t`'s record becomes `r` and no other record changes; `bytes` stand in memory from
`lo`, and every other byte of memory reads as before. -/
def Moves (s s' : State) (t : Nat) (r : Thread) (lo : Nat) (bytes : List Byte) : Prop :=
  s'.threads = s.threads.set t r ∧ s'.readBytes lo bytes.length = bytes ∧
  ∀ a, (a < lo ∨ lo + bytes.length ≤ a) → s'.byteAt a = s.byteAt a

/-- `exec i s` answers a next state which is `s0` but for memory and thread records, and these move as said. -/
def CompletesAs (i : Instr) (s s0 : State) (t : Nat) (r : Thread) (lo : Nat) (bytes : List Byte) : Prop :=
  ∃ s', exec i s = .next s' ∧ s' = { s0 with mem := s'.mem, threads := s'.threads } ∧ Moves s s' t r lo bytes

/-- `exec i s` answers a next state in which nothing but memory and thread `t`'s record has changed, and these
as said: the frame of an instruction that touches nothing else. -/
def Completes (i : Instr) (s : State) (t : Nat) (r : Thread) (lo : Nat) (bytes : List Byte) : Prop :=
  CompletesAs i s s t r lo bytes

/-- The state a fault leaves (R371): `s` with `FAULT` recorded and `FaultOut` emitted, and nothing else. -/
def faulted (s : State) (f : FaultCode) (thread : Option Nat) (pc : Option Addr) : State :=
  { s with fault := { valid := true, code := f, thread := thread, pc := pc }
           outputs := s.outputs ++ [.faultOut f] }

/-- `exec i s` takes the fault `f` on thread `t` (R371). -/
def FaultsWith (i : Instr) (s : State) (t : Nat) (f : FaultCode) : Prop :=
  exec i s = .next (faulted s f (some t) (some (s.thread t).pc))

/-- The bytes of `v`, low byte first: byte `i` is `v[8i+7 : 8i]` (R73, R74). -/
def slices (k : Nat) {n : Nat} (v : BitVec n) : List Byte := (List.range k).map (fun i => v.extractLsb' (8 * i) 8)

/-- `i`, an instruction of `len` bytes, pushes `bytes` (R36). -/
def PushesBytes (i : Instr) (len : Word) (bytes : List Byte) (s : State) (t : Nat) : Prop :=
  (Ready s t → (s.thread t).sp.toNat + bytes.length ≤ (s.thread t).top.toNat →
    Completes i s t { s.thread t with
        pc := (s.thread t).pc + len
        sp := (s.thread t).sp + BitVec.ofNat 16 bytes.length }
      (s.thread t).sp.toNat bytes) ∧
  (s.cur? = some t → (s.thread t).top.toNat < (s.thread t).sp.toNat + bytes.length →
    FaultsWith i s t .stackOverflow)

/-- `i`, of `len` bytes, reads `k` bytes at `ea` and pushes them (R134 to R139). -/
def PushesFrom (i : Instr) (len : Word) (ea : Addr) (k : Nat) (s : State) (t : Nat) : Prop :=
  (Ready s t → ea.toNat + k ≤ s.params.memCap → (s.thread t).sp.toNat + k ≤ (s.thread t).top.toNat →
    Completes i s t { s.thread t with
        pc := (s.thread t).pc + len
        sp := (s.thread t).sp + BitVec.ofNat 16 k }
      (s.thread t).sp.toNat (s.readBytes ea.toNat k)) ∧
  (s.cur? = some t → s.params.memCap < ea.toNat + k → FaultsWith i s t .memOutOfBounds) ∧
  (s.cur? = some t → ea.toNat + k ≤ s.params.memCap →
    (s.thread t).top.toNat < (s.thread t).sp.toNat + k → FaultsWith i s t .stackOverflow)

/-- `i`, of one byte, pops an address and pushes the `k` bytes at it (R140 to R142). -/
def PushesThrough (i : Instr) (k : Nat) (s : State) (t : Nat) : Prop :=
  Ready s t →
  ((s.thread t).sp.toNat < (s.thread t).bottom.toNat + 2 → FaultsWith i s t .stackUnderflow) ∧
  ((s.thread t).bottom.toNat + 2 ≤ (s.thread t).sp.toNat →
    let a := s.valueAt 16 ((s.thread t).sp.toNat - 2)
    (s.params.memCap < a.toNat + k → FaultsWith i s t .memOutOfBounds) ∧
    (a.toNat + k ≤ s.params.memCap → (s.thread t).top.toNat + 2 < (s.thread t).sp.toNat + k →
      FaultsWith i s t .stackOverflow) ∧
    (a.toNat + k ≤ s.params.memCap → (s.thread t).sp.toNat + k ≤ (s.thread t).top.toNat + 2 →
      Completes i s t { s.thread t with
          pc := (s.thread t).pc + 1
          sp := (s.thread t).sp - 2 + BitVec.ofNat 16 k }
        ((s.thread t).sp.toNat - 2) (s.readBytes a.toNat k)))

/-- `i`, of `len` bytes, pops `k` bytes and stores them at `ea` (R143 to R148). -/
def PopsInto (i : Instr) (len : Word) (ea : Addr) (k : Nat) (s : State) (t : Nat) : Prop :=
  (s.cur? = some t → (s.thread t).sp.toNat < (s.thread t).bottom.toNat + k →
    FaultsWith i s t .stackUnderflow) ∧
  (Ready s t → (s.thread t).bottom.toNat + k ≤ (s.thread t).sp.toNat →
    (s.params.memCap < ea.toNat + k → FaultsWith i s t .memOutOfBounds) ∧
    (ea.toNat + k ≤ s.params.memCap →
      Completes i s t { s.thread t with
          pc := (s.thread t).pc + len
          sp := (s.thread t).sp - BitVec.ofNat 16 k }
        ea.toNat (s.readBytes ((s.thread t).sp.toNat - k) k)))

/-- `i`, of one byte, pops an address, then `k` bytes, and stores them at it (R149 to R151). -/
def PopsThrough (i : Instr) (k : Nat) (s : State) (t : Nat) : Prop :=
  Ready s t →
  ((s.thread t).sp.toNat < (s.thread t).bottom.toNat + (2 + k) → FaultsWith i s t .stackUnderflow) ∧
  ((s.thread t).bottom.toNat + (2 + k) ≤ (s.thread t).sp.toNat →
    let a := s.valueAt 16 ((s.thread t).sp.toNat - 2)
    (s.params.memCap < a.toNat + k → FaultsWith i s t .memOutOfBounds) ∧
    (a.toNat + k ≤ s.params.memCap →
      Completes i s t { s.thread t with
          pc := (s.thread t).pc + 1
          sp := (s.thread t).sp - BitVec.ofNat 16 (2 + k) }
        a.toNat (s.readBytes ((s.thread t).sp.toNat - (2 + k)) k)))

/-- The upper `n`-bit value on the stack of thread `t`, the one pushed last (`b` of R160). -/
def State.opB (s : State) (t n : Nat) : BitVec n := s.valueAt n ((s.thread t).sp.toNat - n / 8)

/-- The `n`-bit value beneath it (`a` of R160). -/
def State.opA (s : State) (t n : Nat) : BitVec n := s.valueAt n ((s.thread t).sp.toNat - 2 * (n / 8))

/-- `i`, of one byte, replaces the two `n`-bit values on top of the stack by `r` (R160). -/
def Replaces (i : Instr) {n : Nat} (r : BitVec n) (s : State) (t : Nat) : Prop :=
  Completes i s t { s.thread t with
      pc := (s.thread t).pc + 1
      sp := (s.thread t).sp - BitVec.ofNat 16 (n / 8) }
    ((s.thread t).sp.toNat - 2 * (n / 8)) (slices (n / 8) r)

/-- `i` is the byte `op`; with two `n`-bit values on the stack it replaces them by `f a b`, with less it faults
(R160). -/
def ReplacesBy (i : Instr) (op : Byte) (n : Nat) (f : BitVec n → BitVec n → BitVec n) : Prop :=
  encode i = [op] ∧ ∀ (s : State) (t : Nat), Ready s t →
    ((s.thread t).sp.toNat < (s.thread t).bottom.toNat + 2 * (n / 8) → FaultsWith i s t .stackUnderflow) ∧
    ((s.thread t).bottom.toNat + 2 * (n / 8) ≤ (s.thread t).sp.toNat →
      Replaces i (f (s.opA t n) (s.opB t n)) s t)

/-- As `ReplacesBy`, for an instruction that faults on a zero divisor (R161 b). -/
def DividesBy (i : Instr) (op : Byte) (n : Nat) (f : BitVec n → BitVec n → BitVec n) : Prop :=
  encode i = [op] ∧ ∀ (s : State) (t : Nat), Ready s t →
    ((s.thread t).sp.toNat < (s.thread t).bottom.toNat + 2 * (n / 8) → FaultsWith i s t .stackUnderflow) ∧
    ((s.thread t).bottom.toNat + 2 * (n / 8) ≤ (s.thread t).sp.toNat →
      (s.opB t n = 0 → FaultsWith i s t .divideByZero) ∧
      (s.opB t n ≠ 0 → Replaces i (f (s.opA t n) (s.opB t n)) s t))

/-- `i addr`, of three bytes with opcode `op`, pops an `n`-bit value `v` and goes to `addr` if `p v`, else on
(R201 to R212). -/
def JumpsIf (i : Addr → Instr) (op : Byte) (n : Nat) (p : BitVec n → Prop) : Prop :=
  ∀ (addr : Addr), encode (i addr) = op :: slices 2 addr ∧ ∀ (s : State) (t : Nat),
    (s.cur? = some t → (s.thread t).sp.toNat < (s.thread t).bottom.toNat + n / 8 →
      FaultsWith (i addr) s t .stackUnderflow) ∧
    (Ready s t → (s.thread t).bottom.toNat + n / 8 ≤ (s.thread t).sp.toNat →
      (p (s.opB t n) → Completes (i addr) s t { s.thread t with
          pc := addr
          sp := (s.thread t).sp - BitVec.ofNat 16 (n / 8) } 0 []) ∧
      (¬ p (s.opB t n) → Completes (i addr) s t { s.thread t with
          pc := (s.thread t).pc + 3
          sp := (s.thread t).sp - BitVec.ofNat 16 (n / 8) } 0 []))

/-- The four bytes of the return frame that a call of `len` bytes pushes (R35, R213). -/
def State.frameBytes (s : State) (t : Nat) (len : Word) : List Byte :=
  slices 2 ((s.thread t).pc + len) ++ slices 2 (s.thread t).fp

/-- The state a fault of an event leaves (R371): the interrupted thread is recorded, if there is one. -/
def faultedNow (s : State) (f : FaultCode) : State :=
  faulted s f s.cur? (s.cur?.map (fun t => (s.thread t).pc))

/-- The block is `Quiescent` (R44). -/
abbrev Quiescent (s : State) : Prop :=
  s.actStack = [] ∧ s.syncWait = false ∧ (∀ r ∈ s.threads, r.free = true) ∧ (∀ r ∈ s.bins, r.free = true)

/-- The sum of bytes, modulo 256 (R291). -/
def checksum (bs : List Byte) : Byte := bs.foldl (· + ·) 0

/-- A segment frame, unescaped (R290): header, 16-bit field, image bytes, checksum. -/
def segmentFrame (header : Byte) (field : Word) (data : List Byte) (ck : Byte) : List Byte :=
  header :: (slices 2 field ++ data ++ [ck])

/-- The table of R60, but for what it leaves unspecified. -/
structure AfterReset (s : State) : Prop where
  threads : s.threads = List.replicate s.params.nThreads
    { pc := 0, sp := 0, fp := 0, bottom := 0, top := 0, free := true }
  threadFree : s.threadFree = List.range s.params.nThreads
  bins : s.bins.length = s.params.nBins ∧
    ∀ r ∈ s.bins, r.free = true ∧ r.argSize = 0 ∧ r.method = 0 ∧ r.origin = none
  binFree : s.binFree = List.range s.params.nBins
  actStack : s.actStack = []
  syncWait : s.syncWait = false
  image : s.imageValid = false ∧ s.linkError = false ∧ s.progStart = 0 ∧ s.externB = 0
  callback : s.cbValid = false ∧ s.cbObj = 0 ∧ s.cbMethod = 0
  session : s.confirmedReceived = 0 ∧ s.totalLen = 0
  receiver : s.escPending = false ∧ s.fstate = .idle ∧ s.flen = 0 ∧ s.fovf = false
  transmitter : s.txHead = 0 ∧ s.txCount = 0 ∧ s.txActive = false
  fault : s.fault.valid = false

/-! ## Invariants -/

/-- The parameters meet R7, and the pools have their sizes (R32, R42). -/
abbrev SizesOk (s : State) : Prop :=
  s.params.ok = true ∧ s.threads.length = s.params.nThreads ∧ s.bins.length = s.params.nBins

/-- Every storage is in its canonical form and within its capacity (R42, R45, R51, R52). -/
abbrev StoragesOk (s : State) : Prop :=
  (Memory.wf s.mem = true ∧ Memory.within s.params.memCap s.mem = true) ∧
  (Memory.wf s.fbuf = true ∧ Memory.within s.params.frameCap s.fbuf = true) ∧
  (Memory.wf s.ring = true ∧ Memory.within s.params.txringCap s.ring = true) ∧
  ∀ r ∈ s.bins, Memory.wf r.data = true ∧ Memory.within s.params.binCap r.data = true

/-- The free lists hold distinct indices, exactly the free records (R39, R43); an argument size is at most
`BIN_CAP` (R42). -/
abbrev PoolsOk (s : State) : Prop :=
  s.threadFree.Nodup ∧ (∀ t ∈ s.threadFree, t < s.threads.length) ∧
  (∀ t < s.threads.length, ((s.thread t).free = true ↔ t ∈ s.threadFree)) ∧
  s.binFree.Nodup ∧ (∀ b ∈ s.binFree, b < s.bins.length) ∧
  (∀ b < s.bins.length, ((s.bin b).free = true ↔ b ∈ s.binFree)) ∧
  (∀ r ∈ s.bins, r.argSize.toNat ≤ s.params.binCap)

/-- Each thread named is the thread of exactly one `Root`, which lies below its `Sync`s (R64 a). -/
def rooted : List Activation → Bool
  | [] => true
  | a :: rest =>
    (match a.kind with
      | .root => decide (a.thread ∉ rest.map Activation.thread)
      | .sync => decide (a.thread ∈ rest.map Activation.thread)) && rooted rest

/-- The top activation is that of a SYNC. -/
def topIsSync : List Activation → Bool
  | [] => false
  | a :: _ => decide (a.kind = .sync)

/-- The activation stack: its depth (R40), its threads (R64 a), and a SYNC on top while one waits (R41). -/
abbrev ActivationsOk (s : State) : Prop :=
  s.actStack.length ≤ s.params.maxActDepth ∧ rooted s.actStack = true ∧
  (∀ a ∈ s.actStack, a.thread < s.threads.length) ∧
  (∀ t < s.threads.length, ((s.thread t).free = false ↔ t ∈ s.actStack.map Activation.thread)) ∧
  (s.syncWait = true → topIsSync s.actStack = true)

/-- While no image is valid the block is `Quiescent` and no callback is registered (R296, R320). -/
abbrev WithoutImageOk (s : State) : Prop :=
  s.imageValid = false → s.actStack = [] ∧ s.syncWait = false ∧ (∀ r ∈ s.bins, r.free = true) ∧
    s.cbValid = false

/-- While an image is valid: its bounds (R46), its transfer is complete (R298), and the stacks lie beyond the
extern boundary with their stack pointers inside (R64 b). -/
abbrev ImageOk (s : State) : Prop :=
  s.imageValid = true →
    s.progStart.toNat ≤ s.externB.toNat ∧ s.externB.toNat ≤ s.params.memCap ∧
    s.confirmedReceived = s.totalLen ∧
    ∀ r ∈ s.threads, s.externB.toNat ≤ r.bottom.toNat ∧ r.bottom.toNat ≤ r.top.toNat ∧
      r.top.toNat ≤ s.params.memCap ∧
      (r.free = false → r.bottom.toNat ≤ r.sp.toNat ∧ r.sp.toNat ≤ r.top.toNat)

/-- The session (R64 e, R299). -/
abbrev SessionOk (s : State) : Prop :=
  s.confirmedReceived.toNat ≤ s.totalLen.toNat ∧ s.totalLen.toNat ≤ s.params.memCap

/-- The frame receiver's count (R51). -/
abbrev ReceiverOk (s : State) : Prop := s.flen ≤ s.params.frameCap

/-- The transmit ring (R52, R64 d, R350). -/
abbrev RingOk (s : State) : Prop :=
  s.txHead < s.params.txringCap ∧ s.txCount ≤ s.params.txringCap ∧
  (s.txActive = false → s.txCount = 0)

/-- The invariant of the block. -/
abbrev Inv (s : State) : Prop :=
  SizesOk s ∧ StoragesOk s ∧ PoolsOk s ∧ ActivationsOk s ∧ WithoutImageOk s ∧ ImageOk s ∧ SessionOk s ∧
  ReceiverOk s ∧ RingOk s

/-- Something has written the byte at `a`. -/
abbrev Memory.defined (m : Memory) (a : Nat) : Prop := (Memory.get? m a).isSome = true

/-- Every byte that a rule may read has been written since the last reset (R85, U19 to U22): the confirmed
prefix of an image, all of memory once an image is valid, the arguments of an outstanding bin, the frame under
way, the queued bytes. -/
abbrev DefinedOk (s : State) : Prop :=
  (∀ a < s.confirmedReceived.toNat, Memory.defined s.mem a) ∧
  (s.imageValid = true → ∀ a < s.params.memCap, Memory.defined s.mem a) ∧
  (∀ r ∈ s.bins, r.free = false → ∀ a < r.argSize.toNat, Memory.defined r.data a) ∧
  (∀ a < s.flen, Memory.defined s.fbuf a) ∧
  (∀ i < s.txCount, Memory.defined s.ring ((s.txHead + i) % s.params.txringCap))

/-! ## The link -/

/-- The names of the natives with their ids (R231, R327), as text. -/
def nativeStrings : List (List Byte × Byte) :=
  [("toggleLed", 0), ("setLed", 1), ("registerCallback", 2), ("transmit", 3)].map
    (fun r => (r.1.toList.map (fun c => BitVec.ofNat 8 c.toNat), r.2))

/-- `name` stands at `t`, ended by a zero byte, and all of it below `n` (R327). -/
def NameStands (s : State) (n t : Nat) (name : List Byte) : Prop :=
  t + name.length < n ∧ s.readBytes t name.length = name ∧ s.byteAt (t + name.length) = 0

/-- From `p` to `xb` there stand whole instructions, no CALL with a target at or above `xb`, and no ECALL with
an id of 4 or more (R112, R325). -/
def linkedFrom (xb : Nat) : Nat → Nat → State → Bool
  | 0, p, _ => decide (xb ≤ p)
  | fuel + 1, p, s =>
    if xb ≤ p then true
    else
      match lenOf (s.byteAt p) with
      | none => false
      | some len =>
        decide (p + len ≤ xb) &&
        (s.byteAt p != 0x61 || decide (leNat (s.readBytes (p + 1) 2) < xb)) &&
        (s.byteAt p != 0x63 || decide (leNat (s.readBytes (p + 1) 2) < 4)) &&
        linkedFrom xb fuel (p + len) s

/-- The queued bytes, oldest first (R350). -/
def State.txQueue (s : State) : List Byte :=
  (List.range s.txCount).map (fun i => s.ringByte ((s.txHead + i) % s.params.txringCap))

/-- The byte `b`, received next, closes the frame `f` and has it classified (R264, R270). -/
def ClosesFrame (s : State) (b : Byte) (f : List Byte) : Prop :=
  s.Alive ∧ s.escPending = false ∧ b = 0x7E ∧ s.fstate = .inFrame ∧ s.fovf = false ∧ 0 < s.flen ∧ s.frame = f

/-- `f` is an init segment that is accepted (R291, R296). -/
def AcceptedInit (s : State) (f : List Byte) : Prop :=
  ∃ (total : Word) (data : List Byte), f = segmentFrame 0x01 total data (checksum (slices 2 total ++ data)) ∧
    total.toNat ≤ s.params.memCap ∧ data.length ≤ total.toNat ∧ Quiescent s

/-- Receive bytes one after another, each as an `RxByte` event (R264). -/
def receive : List Byte → State → State
  | [], s => s
  | b :: bs, s => receive bs (inputEvent (.rxByte b) s)

end Sys2Proof.Machine
end

