-- ==== Sys2Proof/Certificates/Slice0/Obligations.lean ====
section
/-! DEFINITION. The statements for the provers. -/

open Sys2Proof Sys2Proof.Machine

/-! ## Memory and encoding -/

/-- R72, R73: `MemRead` and `MemWrite` in the three widths. A read past the arena faults, else it answers the
little-endian value; a write past the arena faults, else it places the bytes `v[8i+7 : 8i]` and changes no other
byte and nothing else. -/
def Obligations.MemoryAccess : Prop :=
  ∀ (s : State) (a : Addr),
    (∀ n ∈ [8, 16, 32], s.params.memCap < a.toNat + n / 8 →
      memRead n a s = .error .memOutOfBounds ∧ ∀ v : BitVec n, memWrite a v s = .error .memOutOfBounds) ∧
    (a.toNat + 1 ≤ s.params.memCap →
      ∃ v : Byte, memRead 8 a s = .ok v ∧ v.toNat = (s.byteAt a.toNat).toNat) ∧
    (a.toNat + 2 ≤ s.params.memCap →
      ∃ v : Word, memRead 16 a s = .ok v ∧
        v.toNat = (s.byteAt a.toNat).toNat + 2 ^ 8 * (s.byteAt (a.toNat + 1)).toNat) ∧
    (a.toNat + 4 ≤ s.params.memCap →
      ∃ v : DWord, memRead 32 a s = .ok v ∧
        v.toNat = (s.byteAt a.toNat).toNat + 2 ^ 8 * (s.byteAt (a.toNat + 1)).toNat +
          2 ^ 16 * (s.byteAt (a.toNat + 2)).toNat + 2 ^ 24 * (s.byteAt (a.toNat + 3)).toNat) ∧
    (∀ n ∈ [8, 16, 32], a.toNat + n / 8 ≤ s.params.memCap → ∀ v : BitVec n,
      ∃ s', memWrite a v s = .ok s' ∧ s' = { s with mem := s'.mem } ∧
        (∀ i < n / 8, s'.byteAt (a.toNat + i) = v.extractLsb' (8 * i) 8) ∧
        ∀ x, (x < a.toNat ∨ a.toNat + n / 8 ≤ x) → s'.byteAt x = s.byteAt x)

/-- R79, R130: a frame-relative slot is at `fp` plus the signed offset, modulo 2^16. -/
def Obligations.SlotAddressWraps : Prop :=
  ∀ (s : State) (t : Nat) (off : Word),
    ((s.slotEa t off).toNat : Int) = (((s.thread t).fp.toNat : Int) + off.toInt) % 65536

/-- R100 to R110: decoding what an instruction is encoded as gives the instruction back, with every operand at
every value, whatever bytes follow. -/
def Obligations.DecodeInvertsEncode : Prop :=
  ∀ (i : Instr) (rest : List Byte), decode (encode i ++ rest) = .ok (i, rest)

/-- R110, R111: sixty-nine opcode bytes are assigned, one to an instruction, and the values R111 lists are not;
and words written out from the encodings of R133, R134, R162, R201, R213, R214, R230 and R242 decode to the
instructions they stand for. A sanity statement. -/
def Obligations.OpcodeMapIsComplete : Prop :=
  (opRows.length = 69 ∧ (opRows.map OpRow.op).Nodup) ∧
  (∀ op : Byte, (lenOf op = none ↔
    op.toNat ≤ 0x03 ∨ (op.toNat ≤ 0x57 ∧ op.toNat % 4 = 3) ∨ (0x58 ≤ op.toNat ∧ op.toNat ≤ 0x5F) ∨
      0x66 ≤ op.toNat)) ∧
  decode [0x06, 0x78, 0x56, 0x34, 0x12] = .ok (.pushiD 0x12345678, []) ∧
  decode [0x08, 0xFB, 0xFF] = .ok (.pushfB (-5), []) ∧
  decode [0x20] = .ok (.addB, []) ∧
  decode [0x48, 0x20, 0x00] = .ok (.jgzB 0x0020, []) ∧
  decode [0x61, 0x40, 0x00] = .ok (.call 0x0040, []) ∧
  decode [0x62, 0x08, 0x00] = .ok (.ret 8, []) ∧
  decode [0x63, 0x01, 0x00] = .ok (.ecall 1, []) ∧
  decode [0x65] = .ok (.async, []) ∧
  decode [0x07] = .error (.illegalOpcode 0x07)

/-! ## Push and pop -/

/-- R131 to R133: PUSHI in the three widths, its encoding, its effect and its fault. -/
def Obligations.PushImmediate : Prop :=
  (∀ v : BitVec 8, encode (.pushiB v) = [0x04, v] ∧ ∀ s t, PushesBytes (.pushiB v) 2 [v] s t) ∧
  (∀ v : BitVec 16, encode (.pushiW v) = 0x05 :: slices 2 v ∧
    ∀ s t, PushesBytes (.pushiW v) 3 (slices 2 v) s t) ∧
  (∀ v : BitVec 32, encode (.pushiD v) = 0x06 :: slices 4 v ∧
    ∀ s t, PushesBytes (.pushiD v) 5 (slices 4 v) s t)

/-- R134 to R136: PUSHF in the three widths, its encoding, its effect and its faults in order. -/
def Obligations.PushSlot : Prop :=
  ∀ off : Word,
    (encode (.pushfB off) = 0x08 :: slices 2 off ∧
      ∀ s t, PushesFrom (.pushfB off) 3 (s.slotEa t off) 1 s t) ∧
    (encode (.pushfW off) = 0x09 :: slices 2 off ∧
      ∀ s t, PushesFrom (.pushfW off) 3 (s.slotEa t off) 2 s t) ∧
    (encode (.pushfD off) = 0x0A :: slices 2 off ∧
      ∀ s t, PushesFrom (.pushfD off) 3 (s.slotEa t off) 4 s t)

/-- R137 to R139: PUSHA in the three widths, its encoding, its effect and its faults in order. -/
def Obligations.PushAbsolute : Prop :=
  ∀ addr : Addr,
    (encode (.pushaB addr) = 0x0C :: slices 2 addr ∧ ∀ s t, PushesFrom (.pushaB addr) 3 addr 1 s t) ∧
    (encode (.pushaW addr) = 0x0D :: slices 2 addr ∧ ∀ s t, PushesFrom (.pushaW addr) 3 addr 2 s t) ∧
    (encode (.pushaD addr) = 0x0E :: slices 2 addr ∧ ∀ s t, PushesFrom (.pushaD addr) 3 addr 4 s t)

/-- R140 to R142: PUSHD in the three widths, its encoding, its effect and its faults in order. -/
def Obligations.PushDereference : Prop :=
  (encode .pushdB = [0x10] ∧ ∀ s t, PushesThrough .pushdB 1 s t) ∧
  (encode .pushdW = [0x11] ∧ ∀ s t, PushesThrough .pushdW 2 s t) ∧
  (encode .pushdD = [0x12] ∧ ∀ s t, PushesThrough .pushdD 4 s t)

/-- R143 to R145: POPF in the three widths, its encoding, its effect and its faults in order. -/
def Obligations.PopSlot : Prop :=
  ∀ off : Word,
    (encode (.popfB off) = 0x14 :: slices 2 off ∧ ∀ s t, PopsInto (.popfB off) 3 (s.slotEa t off) 1 s t) ∧
    (encode (.popfW off) = 0x15 :: slices 2 off ∧ ∀ s t, PopsInto (.popfW off) 3 (s.slotEa t off) 2 s t) ∧
    (encode (.popfD off) = 0x16 :: slices 2 off ∧ ∀ s t, PopsInto (.popfD off) 3 (s.slotEa t off) 4 s t)

/-- R146 to R148: POPA in the three widths, its encoding, its effect and its faults in order. -/
def Obligations.PopAbsolute : Prop :=
  ∀ addr : Addr,
    (encode (.popaB addr) = 0x18 :: slices 2 addr ∧ ∀ s t, PopsInto (.popaB addr) 3 addr 1 s t) ∧
    (encode (.popaW addr) = 0x19 :: slices 2 addr ∧ ∀ s t, PopsInto (.popaW addr) 3 addr 2 s t) ∧
    (encode (.popaD addr) = 0x1A :: slices 2 addr ∧ ∀ s t, PopsInto (.popaD addr) 3 addr 4 s t)

/-- R149 to R151: POPD in the three widths, its encoding, its effect and its faults in order. -/
def Obligations.PopDereference : Prop :=
  (encode .popdB = [0x1C] ∧ ∀ s t, PopsThrough .popdB 1 s t) ∧
  (encode .popdW = [0x1D] ∧ ∀ s t, PopsThrough .popdW 2 s t) ∧
  (encode .popdD = [0x1E] ∧ ∀ s t, PopsThrough .popdD 4 s t)

/-! ## Arithmetic -/

/-- R162 to R170: ADD, SUB and MUL wrap modulo 2^n. -/
def Obligations.WrappingArithmetic : Prop :=
  (ReplacesBy .addB 0x20 8 (· + ·) ∧ ReplacesBy .addW 0x21 16 (· + ·) ∧ ReplacesBy .addD 0x22 32 (· + ·)) ∧
  (ReplacesBy .subB 0x24 8 (· - ·) ∧ ReplacesBy .subW 0x25 16 (· - ·) ∧ ReplacesBy .subD 0x26 32 (· - ·)) ∧
  (ReplacesBy .mulB 0x28 8 (· * ·) ∧ ReplacesBy .mulW 0x29 16 (· * ·) ∧ ReplacesBy .mulD 0x2A 32 (· * ·))

/-- R171 to R176: DIV and MOD are signed division rounded toward zero and its remainder; a zero divisor faults. -/
def Obligations.SignedDivision : Prop :=
  (DividesBy .divB 0x2C 8 BitVec.sdiv ∧ DividesBy .divW 0x2D 16 BitVec.sdiv ∧
    DividesBy .divD 0x2E 32 BitVec.sdiv) ∧
  (DividesBy .modB 0x30 8 BitVec.srem ∧ DividesBy .modW 0x31 16 BitVec.srem ∧
    DividesBy .modD 0x32 32 BitVec.srem)

/-- R177 to R185: AND, OR and XOR work bit by bit. -/
def Obligations.BitwiseLogic : Prop :=
  (ReplacesBy .andB 0x34 8 (· &&& ·) ∧ ReplacesBy .andW 0x35 16 (· &&& ·) ∧
    ReplacesBy .andD 0x36 32 (· &&& ·)) ∧
  (ReplacesBy .orB 0x38 8 (· ||| ·) ∧ ReplacesBy .orW 0x39 16 (· ||| ·) ∧ ReplacesBy .orD 0x3A 32 (· ||| ·)) ∧
  (ReplacesBy .xorB 0x3C 8 (· ^^^ ·) ∧ ReplacesBy .xorW 0x3D 16 (· ^^^ ·) ∧
    ReplacesBy .xorD 0x3E 32 (· ^^^ ·))

/-- R186 to R191: SHL shifts in zeros, SHR the sign; the count is the whole upper operand, unsigned (R161 e,
log 12), and a count of the width or more shifts every bit out. -/
def Obligations.Shifts : Prop :=
  (ReplacesBy .shlB 0x40 8 (fun a b => a <<< b.toNat) ∧ ReplacesBy .shlW 0x41 16 (fun a b => a <<< b.toNat) ∧
    ReplacesBy .shlD 0x42 32 (fun a b => a <<< b.toNat)) ∧
  (ReplacesBy .shrB 0x44 8 (fun a b => a.sshiftRight b.toNat) ∧
    ReplacesBy .shrW 0x45 16 (fun a b => a.sshiftRight b.toNat) ∧
    ReplacesBy .shrD 0x46 32 (fun a b => a.sshiftRight b.toNat))

/-! ## Control -/

/-- R200: JMP. -/
def Obligations.Jump : Prop :=
  ∀ addr : Addr, encode (.jmp addr) = 0x60 :: slices 2 addr ∧
    ∀ s t, s.cur? = some t → Completes (.jmp addr) s t { s.thread t with pc := addr } 0 []

/-- R201 to R206: JGZ and JGEZ read the value as signed. -/
def Obligations.SignedJumps : Prop :=
  (JumpsIf .jgzB 0x48 8 (fun v => 0 < v.toInt) ∧ JumpsIf .jgzW 0x49 16 (fun v => 0 < v.toInt) ∧
    JumpsIf .jgzD 0x4A 32 (fun v => 0 < v.toInt)) ∧
  (JumpsIf .jgezB 0x4C 8 (fun v => 0 ≤ v.toInt) ∧ JumpsIf .jgezW 0x4D 16 (fun v => 0 ≤ v.toInt) ∧
    JumpsIf .jgezD 0x4E 32 (fun v => 0 ≤ v.toInt))

/-- R207 to R212: JEZ and JNEZ test all bits. -/
def Obligations.ZeroJumps : Prop :=
  (JumpsIf .jezB 0x50 8 (fun v => v = 0) ∧ JumpsIf .jezW 0x51 16 (fun v => v = 0) ∧
    JumpsIf .jezD 0x52 32 (fun v => v = 0)) ∧
  (JumpsIf .jnezB 0x54 8 (fun v => v ≠ 0) ∧ JumpsIf .jnezW 0x55 16 (fun v => v ≠ 0) ∧
    JumpsIf .jnezD 0x56 32 (fun v => v ≠ 0))

/-- R213: CALL pushes the return address and the frame pointer, sets `fp` above them and jumps; without room
for the whole frame it faults. -/
def Obligations.Call : Prop :=
  ∀ addr : Addr, encode (.call addr) = 0x61 :: slices 2 addr ∧ ∀ s t,
    (s.cur? = some t → (s.thread t).top.toNat < (s.thread t).sp.toNat + 4 →
      FaultsWith (.call addr) s t .stackOverflow) ∧
    (Ready s t → (s.thread t).sp.toNat + 4 ≤ (s.thread t).top.toNat →
      Completes (.call addr) s t { s.thread t with
          pc := addr
          sp := (s.thread t).sp + 4
          fp := (s.thread t).sp + 4 }
        (s.thread t).sp.toNat (s.frameBytes t 3))

/-- R214: RET, to a caller in the same activation, from the callee of a SYNC, and from a root activation; and
its faults. -/
def Obligations.Return : Prop :=
  ∀ n16 : Word, encode (.ret n16) = 0x62 :: slices 2 n16 ∧
    ∀ (s : State) (t : Nat), s.cur? = some t → (s.thread t).top.toNat ≤ s.params.memCap →
    let T := s.thread t
    let savedFp : Word := s.valueAt 16 (T.fp.toNat - 2)
    let ret : Word := s.valueAt 16 (T.fp.toNat - 4)
    let inside := T.bottom.toNat + 4 ≤ T.fp.toNat ∧ T.fp.toNat ≤ T.top.toNat
    (¬ inside → FaultsWith (.ret n16) s t .stackUnderflow) ∧
    (inside → savedFp ≠ 0 →
      (T.fp.toNat < T.bottom.toNat + n16.toNat + 4 → FaultsWith (.ret n16) s t .stackUnderflow) ∧
      (T.bottom.toNat + n16.toNat + 4 ≤ T.fp.toNat →
        Completes (.ret n16) s t { T with pc := ret, fp := savedFp, sp := T.fp - 4 - n16 } 0 [])) ∧
    (inside → savedFp = 0 → ∀ a rest, s.actStack = a :: rest →
      (a.kind = .sync → T.fp.toNat < T.bottom.toNat + n16.toNat + 4 →
        FaultsWith (.ret n16) s t .stackUnderflow) ∧
      (a.kind = .sync → T.bottom.toNat + n16.toNat + 4 ≤ T.fp.toNat →
        CompletesAs (.ret n16) s
          { s with actStack := rest, outputs := s.outputs ++ [.syncDone a.obj] } t
          { T with pc := ret, fp := a.savedFp, sp := T.fp - 4 - n16 } 0 []) ∧
      (a.kind = .root →
        CompletesAs (.ret n16) s
          { s with
            actStack := rest
            threadFree := t :: s.threadFree
            outputs := s.outputs ++ [.activationDone t] } t
          { T with free := true } 0 []))

/-- R213, R214, R215: a CALL followed by the RET of a function without parameters leaves every register of the
caller as it was, but for the program counter, which is after the CALL. The frame pointer must not be the
sentinel. -/
def Obligations.CallThenReturn : Prop :=
  ∀ (s : State) (t : Nat) (addr : Addr), Ready s t → (s.thread t).fp ≠ 0 →
    (s.thread t).sp.toNat + 4 ≤ (s.thread t).top.toNat →
    ∃ s1 s2, exec (.call addr) s = .next s1 ∧ exec (.ret 0) s1 = .next s2 ∧
      s2.threads = s.threads.set t { s.thread t with pc := (s.thread t).pc + 3 } ∧
      s2 = { s with mem := s2.mem, threads := s2.threads }

/-! ## Calls -/

/-- R232, R233: ECALL of toggle-LED, which inverts the LED, and of set-LED, whose parameter 0 turns it on and
every other value off. That toggle inverts is the spec's own reading (R232: "from general knowledge, not in source"). -/
def Obligations.NativeLed : Prop :=
  ∀ (s : State) (t : Nat) (v : Led), Ready s t → (s.thread t).sp.toNat + 4 ≤ (s.thread t).top.toNat →
    (v ≠ s.led →
      CompletesAs (.ecall 0) s { s with led := v, outputs := s.outputs ++ [.led v] } t
        { s.thread t with pc := (s.thread t).pc + 3 } (s.thread t).sp.toNat (s.frameBytes t 3)) ∧
    ((s.thread t).bottom.toNat + 1 ≤ (s.thread t).sp.toNat → (v = .on ↔ s.opB t 8 = 0) →
      CompletesAs (.ecall 1) s { s with led := v, outputs := s.outputs ++ [.led v] } t
        { s.thread t with pc := (s.thread t).pc + 3, sp := (s.thread t).sp - 1 }
        (s.thread t).sp.toNat (s.frameBytes t 3))

/-- R234: ECALL of register-application-callback. -/
def Obligations.NativeRegisterCallback : Prop :=
  ∀ (s : State) (t : Nat), Ready s t →
    (s.thread t).bottom.toNat + 4 ≤ (s.thread t).sp.toNat →
    (s.thread t).sp.toNat + 4 ≤ (s.thread t).top.toNat →
    CompletesAs (.ecall 2) s { s with cbObj := s.opB t 16, cbMethod := s.opA t 16, cbValid := true } t
      { s.thread t with pc := (s.thread t).pc + 3, sp := (s.thread t).sp - 4 }
      (s.thread t).sp.toNat (s.frameBytes t 3)

/-- R235: ECALL of transmit-buffer. `s1` is the state with the return frame pushed, from which the buffer is
read. A frame that fits is queued whole and the result byte is 0; else the result byte is 1 and nothing is
queued; a buffer that reaches past the arena faults. -/
def Obligations.NativeTransmit : Prop :=
  ∀ (s : State) (t : Nat), Ready s t →
    (s.thread t).bottom.toNat + 3 ≤ (s.thread t).sp.toNat →
    (s.thread t).sp.toNat + 4 ≤ (s.thread t).top.toNat →
    let sp := (s.thread t).sp.toNat
    let s1 := s.writeBytes sp (s.frameBytes t 3)
    let a := (s.opB t 16).toNat
    let l := (s1.byteAt a).toNat
    let wire := 0x7E :: (wireEncode (s1.readBytes (a + 1) l) ++ [0x7E])
    let r := { s.thread t with pc := (s.thread t).pc + 3, sp := (s.thread t).sp - 2 }
    (s.params.memCap < a + 1 → FaultsWith (.ecall 3) s t .memOutOfBounds) ∧
    (a + 1 ≤ s.params.memCap → s.params.memCap < a + 1 + l → FaultsWith (.ecall 3) s t .memOutOfBounds) ∧
    (a + 1 + l ≤ s.params.memCap →
      (∀ q, enqueue wire s = some q →
        CompletesAs (.ecall 3) s q t r (sp - 3) (0 :: (s.readBytes (sp - 2) 2 ++ s.frameBytes t 3))) ∧
      (enqueue wire s = none →
        Completes (.ecall 3) s t r (sp - 3) (1 :: (s.readBytes (sp - 2) 2 ++ s.frameBytes t 3))))

/-- R230: when ECALL faults before its native runs, in the order of the tests; `need` is that of R231. -/
def Obligations.EcallFaults : Prop :=
  ∀ (s : State) (t : Nat) (id : Word), s.cur? = some t →
    encode (.ecall id) = 0x63 :: slices 2 id ∧
    (4 ≤ id.toNat → FaultsWith (.ecall id) s t .illegalNative) ∧
    ∀ need, (id, need) ∈ [((0 : Word), 0), (1, 1), (2, 4), (3, 3)] →
      ((s.thread t).sp.toNat < (s.thread t).bottom.toNat + need → FaultsWith (.ecall id) s t .stackUnderflow) ∧
      ((s.thread t).bottom.toNat + need ≤ (s.thread t).sp.toNat →
        (s.thread t).top.toNat < (s.thread t).sp.toNat + 4 → FaultsWith (.ecall id) s t .stackOverflow)

/-- R240: SYNC and its faults in order. With the stack pointer inside the stack the frame has the room of the
two words popped, so its `StackOverflow` does not occur. -/
def Obligations.SyncCall : Prop :=
  encode .sync = [0x64] ∧ ∀ (s : State) (t : Nat), Ready s t →
    let T := s.thread t
    let obj := s.opB t 16
    let method := s.opA t 16
    (T.sp.toNat < T.bottom.toNat + 4 → FaultsWith .sync s t .stackUnderflow) ∧
    (T.bottom.toNat + 4 ≤ T.sp.toNat →
      (s.binFree = [] → FaultsWith .sync s t .binPoolExhausted) ∧
      (∀ b0 rest, s.binFree = b0 :: rest →
        (s.actStack.length = s.params.maxActDepth → FaultsWith .sync s t .activationDepthExceeded) ∧
        (s.actStack.length ≠ s.params.maxActDepth →
          CompletesAs .sync s
            { s with
              bins := s.bins.set b0 { s.bin b0 with method := method, argSize := 0, origin := some t }
              actStack := { kind := .sync, thread := t, savedFp := T.fp, obj := obj } :: s.actStack
              syncWait := true
              outputs := s.outputs ++ [.schedSync obj method t] } t
            { T with pc := method, fp := T.sp }
            (T.sp.toNat - 4) (slices 2 (T.pc + 1) ++ [0, 0]))))

/-- R241: `SyncEnter`, and the window it ends: while `syncWait` is set, the interpreter's turn and a `Dispatch`
change nothing. That the interpreter's turn, where `Step` is not enabled, is a step that changes nothing is the
model's choice (log 2). -/
def Obligations.SyncWindow : Prop :=
  ∀ s : State, s.Alive →
    (s.syncWait = true → inputEvent .syncEnter s = { s with syncWait := false } ∧
      (s.inputs = [] → step s = .next s) ∧ ∀ b, inputEvent (.dispatch b) s = s) ∧
    (s.syncWait = false → inputEvent .syncEnter s = s)

/-- R240, R241, R214: a SYNC, its `SyncEnter` and the callee's RET without parameters give the caller back its
frame pointer and go on after the SYNC, with the two words popped; `SyncDone` follows `SchedSync`. -/
def Obligations.SyncThenReturn : Prop :=
  ∀ (s : State) (t b0 : Nat) (bs : List Nat), Ready s t → s.Alive →
    (s.thread t).bottom.toNat + 4 ≤ (s.thread t).sp.toNat →
    s.binFree = b0 :: bs → s.actStack.length ≠ s.params.maxActDepth → s.syncWait = false →
    ∃ s1 s2, exec .sync s = .next s1 ∧ exec (.ret 0) (inputEvent .syncEnter s1) = .next s2 ∧
      s2.threads = s.threads.set t { s.thread t with
        pc := (s.thread t).pc + 1, sp := (s.thread t).sp - 4 } ∧
      s2.actStack = s.actStack ∧ s2.syncWait = false ∧ s2.binFree = s.binFree ∧
      s2.outputs = s.outputs ++ [.schedSync (s.opB t 16) (s.opA t 16) t, .syncDone (s.opB t 16)]

/-- R242, R243: ASYNC moves its argument bytes into the first free bin, removes them and the five operands from
the stack, announces the call and goes on; and its faults in order. `d` is the bin's data: its first `n` bytes
are the arguments, and the others read as before. -/
def Obligations.AsyncCall : Prop :=
  encode .async = [0x65] ∧ ∀ (s : State) (t : Nat), Ready s t →
    let T := s.thread t
    let sp := T.sp.toNat
    let n : Word := s.valueAt 16 (sp - 2)
    let baseline : DWord := s.valueAt 32 (sp - 6)
    let deadline : DWord := s.valueAt 32 (sp - 10)
    let obj : Word := s.valueAt 16 (sp - 12)
    let method : Word := s.valueAt 16 (sp - 14)
    (sp < T.bottom.toNat + 14 → FaultsWith .async s t .stackUnderflow) ∧
    (T.bottom.toNat + 14 ≤ sp →
      (s.params.binCap < n.toNat → FaultsWith .async s t .binOverflow) ∧
      (n.toNat ≤ s.params.binCap → sp < T.bottom.toNat + 14 + n.toNat →
        FaultsWith .async s t .stackUnderflow) ∧
      (n.toNat ≤ s.params.binCap → T.bottom.toNat + 14 + n.toNat ≤ sp →
        (s.binFree = [] → FaultsWith .async s t .binPoolExhausted) ∧
        ∀ b rest, s.binFree = b :: rest → b < s.bins.length →
          ∃ d : Memory,
            CompletesAs .async s
              { s with
                bins := s.bins.set b
                  { data := d, argSize := n, method := method, origin := some t, free := false }
                binFree := rest
                outputs := s.outputs ++ [.schedAsync obj baseline deadline b] } t
              { T with pc := T.pc + 1, sp := T.sp - 14 - n } 0 [] ∧
            Memory.bytes s.resets (.bin b) d 0 n.toNat = s.readBytes (sp - 14 - n.toNat) n.toNat ∧
            ∀ i, n.toNat ≤ i →
              Memory.byteOr s.resets (.bin b) d i = Memory.byteOr s.resets (.bin b) (s.bin b).data i))

/-- R244: `Dispatch`: when it is ignored, when it faults, in order, and what it does. -/
def Obligations.Dispatch : Prop :=
  ∀ (s : State) (b : Nat), s.Alive →
    let s' := inputEvent (.dispatch b) s
    (s.params.nBins ≤ b ∨ (s.bin b).free = true ∨ s.syncWait = true → s' = s) ∧
    (b < s.params.nBins → (s.bin b).free = false → s.syncWait = false →
      (s.threadFree = [] → s' = faultedNow s .threadPoolExhausted) ∧
      ∀ t rest, s.threadFree = t :: rest →
        (s.actStack.length = s.params.maxActDepth → s' = faultedNow s .activationDepthExceeded) ∧
        (s.actStack.length ≠ s.params.maxActDepth →
          let T := s.thread t
          let a := (s.bin b).argSize
          (T.top.toNat < T.bottom.toNat + a.toNat + 4 → s' = faultedNow s .stackOverflow) ∧
          (T.bottom.toNat + a.toNat + 4 ≤ T.top.toNat → T.top.toNat ≤ s.params.memCap →
            s' = { s with
              mem := s'.mem
              threads := s'.threads
              threadFree := rest
              bins := s.bins.set b { s.bin b with free := true }
              binFree := b :: s.binFree
              actStack := { kind := .root, thread := t, savedFp := 0, obj := 0 } :: s.actStack } ∧
            Moves s s' t
              { T with
                pc := (s.bin b).method
                sp := T.bottom + a + 4
                fp := T.bottom + a + 4
                free := false }
              T.bottom.toNat (s.binBytes b a.toNat ++ [0, 0, 0, 0]))))

/-! ## Steps and faults -/

/-- R104, R62: when the interpreter is enabled and the bytes at the program counter, inside the program section,
are an instruction, one step is that instruction's meaning. It comes with nothing around it: every meaning
writes its own program counter. -/
def Obligations.StepRunsDecoded : Prop :=
  ∀ (s : State) (t k : Nat) (i : Instr) (rest : List Byte), s.Alive → s.syncWait = false →
    s.cur? = some t → s.imageValid = true → s.progStart.toNat ≤ (s.thread t).pc.toNat →
    decode (s.readBytes (s.thread t).pc.toNat k) = .ok (i, rest) →
    (s.thread t).pc.toNat + (encode i).length ≤ s.externB.toNat →
    (s.inputs = [] → step s = exec i s) ∧
    (∀ es, s.inputs = .step :: es → step s = exec i { s with inputs := es })

/-- R104, R111, R373: the fetch faults in their order: no image or a program counter outside the program
section, then a byte that begins no instruction, then an instruction that crosses the extern boundary. -/
def Obligations.FetchFaults : Prop :=
  ∀ (s : State) (t : Nat), s.Alive → s.syncWait = false → s.cur? = some t → s.inputs = [] →
    let pc := (s.thread t).pc
    let outside := s.imageValid = false ∨ pc.toNat < s.progStart.toNat ∨ s.externB.toNat ≤ pc.toNat
    (outside → step s = .next (faulted s .fetchOutOfCode (some t) (some pc))) ∧
    (¬ outside → (∀ i, (encode i).head? ≠ some (s.byteAt pc.toNat)) →
      step s = .next (faulted s .illegalOpcode (some t) (some pc))) ∧
    (¬ outside → ∀ i, (encode i).head? = some (s.byteAt pc.toNat) →
      s.externB.toNat < pc.toNat + (encode i).length →
      step s = .next (faulted s .fetchOutOfCode (some t) (some pc)))

/-- R38: an instruction stops only where there is no current thread; with one it answers a next state, be it
with a fault recorded. That the meaning answers the fault `noCurrentThread` there is the model's choice (log 9). -/
def Obligations.OnlyMissingThreadStops : Prop :=
  ∀ (i : Instr) (s : State),
    (s.cur? = none → exec i s = .fault .noCurrentThread) ∧
    (∀ t, s.cur? = some t → ∃ s', exec i s = .next s')

/-- R371: while a fault is recorded every event but `Rst` is ignored, and the interpreter's turn too: that it is
a step that changes nothing is the model's choice (log 2). -/
def Obligations.FaultIsSticky : Prop :=
  ∀ (s : State), s.fault.valid = true →
    (∀ e, e ≠ .rst → inputEvent e s = s) ∧ (s.inputs = [] → step s = .next s)

/-- R371: a step after which a fault is recorded, and was not before, has done nothing but record it and emit
`FaultOut`: it is undone. -/
def Obligations.FaultedStepIsUndone : Prop :=
  ∀ s s' : State, s.Alive → step s = .next s' → s'.fault.valid = true →
    ∃ f, s' = faultedNow { s with inputs := s.inputs.tail } f

/-- R60, R400, R401: power-up, `Rst` (with a fault recorded too) and a received reset frame leave the table of
R60; only the last emits, and it emits `Restart`. -/
def Obligations.ResetState : Prop :=
  AfterReset State.reset ∧
  (∀ s, AfterReset (inputEvent .rst s) ∧ (inputEvent .rst s).outputs = s.outputs) ∧
  ∀ (s : State) (x : List Byte), s.Alive → s.fstate = .inFrame → s.escPending = false → s.fovf = false →
    0 < s.flen → s.frame = 0x04 :: x →
    AfterReset (inputEvent (.rxByte 0x7E) s) ∧
    (inputEvent (.rxByte 0x7E) s).outputs = s.outputs ++ [.restart]

/-! ## The link -/

/-- R264, R265: the receiver's transitions, escape state first. The values 7E, 7D and 20 are those of R260, which
marks them "from general knowledge, not in source". -/
def Obligations.ReceiverTransitions : Prop :=
  ∀ (s : State) (b : Byte),
    (s.fault.valid = true → inputEvent (.rxByte b) s = s) ∧
    (s.Alive →
      (s.escPending = false → b = 0x7D → inputEvent (.rxByte b) s = { s with escPending := true }) ∧
      (∀ d : Byte, (s.escPending = true ∧ d = b ^^^ 0x20) ∨
          (s.escPending = false ∧ b ≠ 0x7D ∧ b ≠ 0x7E ∧ d = b) →
        (s.fstate = .idle → inputEvent (.rxByte b) s = { s with escPending := false }) ∧
        (s.fstate = .inFrame → s.flen < s.params.frameCap →
          ∃ f, inputEvent (.rxByte b) s = { s with escPending := false, fbuf := f, flen := s.flen + 1 } ∧
            Memory.bytes s.resets .fbuf f 0 (s.flen + 1) = s.frame ++ [d]) ∧
        (s.fstate = .inFrame → s.params.frameCap ≤ s.flen →
          inputEvent (.rxByte b) s = { s with escPending := false, fovf := true })) ∧
      (s.escPending = false → b = 0x7E →
        (s.fstate = .idle →
          inputEvent (.rxByte b) s = { s with fstate := .inFrame, flen := 0, fovf := false }) ∧
        (s.fstate = .inFrame → s.flen = 0 ∨ s.fovf = true →
          inputEvent (.rxByte b) s = { s with fstate := .idle, flen := 0, fovf := false }) ∧
        (s.fstate = .inFrame → 0 < s.flen → s.fovf = false →
          (∀ q, frameComplete s.frame { s with fstate := .idle } = .ok q →
            inputEvent (.rxByte b) s = { q with flen := 0, fovf := false }) ∧
          (∀ f, frameComplete s.frame { s with fstate := .idle } = .error f →
            inputEvent (.rxByte b) s = faultedNow s f))))

/-- R261 to R263: decoding an encoded sequence gives it back, encoded bytes hold no delimiter and are as many as
R261 says, and the converse fails. The values of the delimiter, the escape octet and the flip mask are those of
R260, which marks them "from general knowledge, not in source". -/
def Obligations.CodecRoundTrip : Prop :=
  (∀ x, wireDecode false (wireEncode x) = (x, false)) ∧
  (∀ x, (0x7E : Byte) ∉ wireEncode x ∧
    (wireEncode x).length = x.length + (x.filter (fun b => b = 0x7E ∨ b = 0x7D)).length) ∧
  ∃ y, wireEncode (wireDecode false y).1 ≠ y

/-- R261 to R265: receiving a delimiter and an encoded sequence puts the sequence into the frame buffer, and
changes nothing else but the receiver. -/
def Obligations.ReceptionInvertsTransmission : Prop :=
  ∀ (s : State) (x : List Byte), s.Alive → s.fstate = .idle → s.escPending = false →
    x.length ≤ s.params.frameCap →
    let s' := receive (0x7E :: wireEncode x) s
    s'.frame = x ∧ s' = { s with fbuf := s'.fbuf, fstate := .inFrame, flen := x.length, fovf := false }

/-- R268: a frame of more than `FRAME_CAP` bytes is discarded whole at its closing delimiter, whatever it
says. -/
def Obligations.OversizeFrameIsDropped : Prop :=
  ∀ (s : State) (x : List Byte), s.Alive → s.fstate = .idle → s.escPending = false →
    s.params.frameCap < x.length →
    let s' := receive (0x7E :: (wireEncode x ++ [0x7E])) s
    s' = { s with fbuf := s'.fbuf, flen := 0, fovf := false }

/-- R270, R273: an application frame, with any header but the three that R270 lists: dropped without a callback
or a bin that can hold it, else its payload and its length go to the callback in a fresh bin. -/
def Obligations.ApplicationFrame : Prop :=
  ∀ (s : State) (h : Byte) (x : List Byte), h ≠ 0x01 → h ≠ 0x02 → h ≠ 0x04 →
    (s.cbValid = false ∨ s.params.binCap < x.length + 2 → frameComplete (h :: x) s = .ok s) ∧
    (s.cbValid = true → x.length + 2 ≤ s.params.binCap →
      (s.binFree = [] → frameComplete (h :: x) s = .error .binPoolExhausted) ∧
      ∀ b rest, s.binFree = b :: rest → b < s.bins.length →
        ∃ d, frameComplete (h :: x) s = .ok { s with
            bins := s.bins.set b
              { data := d
                argSize := BitVec.ofNat 16 (x.length + 2)
                method := s.cbMethod
                origin := none
                free := false }
            binFree := rest
            outputs := s.outputs ++ [.schedAsync s.cbObj 0 0 b] } ∧
          Memory.bytes s.resets (.bin b) d 0 (x.length + 2) = x ++ slices 2 (BitVec.ofNat 16 x.length))

/-- R274: the receive timeout. -/
def Obligations.ReceiveTimeout : Prop :=
  ∀ s : State, s.Alive → s.params.rxTimeoutEnable = true →
    (s.fstate = .inFrame → inputEvent .rxTimeout s =
      { s with fstate := .idle, flen := 0, fovf := false, escPending := false }) ∧
    (s.fstate = .idle → inputEvent .rxTimeout s = { s with escPending := false })

/-- R352: `enqueue` takes a sequence whole, behind what is queued, or not at all; an idle transmitter sends the
oldest byte at once. -/
def Obligations.EnqueueIsWhole : Prop :=
  ∀ (s : State) (x : List Byte), s.txHead < s.params.txringCap → x ≠ [] →
    (s.params.txringCap < s.txCount + x.length → enqueue x s = none) ∧
    (s.txCount + x.length ≤ s.params.txringCap →
      (s.txActive = true → ∃ q, enqueue x s = some q ∧ q.txQueue = s.txQueue ++ x ∧
        q = { s with ring := q.ring, txCount := s.txCount + x.length }) ∧
      (s.txActive = false → ∃ q b, enqueue x s = some q ∧ b :: q.txQueue = s.txQueue ++ x ∧
        q = { s with
          ring := q.ring
          txHead := q.txHead
          txCount := s.txCount + x.length - 1
          txActive := true
          outputs := s.outputs ++ [.txByte b] }))

/-- R354: `TxComplete` drains one byte, oldest first, or makes the transmitter idle; a spurious one is
ignored. -/
def Obligations.TransmitComplete : Prop :=
  ∀ s : State, s.txHead < s.params.txringCap →
    (s.fault.valid = true ∨ s.txActive = false → inputEvent .txComplete s = s) ∧
    (s.Alive → s.txActive = true →
      (s.txQueue = [] → inputEvent .txComplete s = { s with txActive := false }) ∧
      ∀ b q, s.txQueue = b :: q →
        (inputEvent .txComplete s).txQueue = q ∧
        inputEvent .txComplete s = { s with
          txHead := (inputEvent .txComplete s).txHead
          txCount := s.txCount - 1
          outputs := s.outputs ++ [.txByte b] })

/-! ## Segments -/

/-- R290, R291: a segment frame that is too short, or whose checksum is not the sum of its field and image
bytes, changes nothing and is not acknowledged. -/
def Obligations.BadSegmentIsDropped : Prop :=
  ∀ (s : State) (h : Byte), h = 0x01 ∨ h = 0x02 →
    (∀ x : List Byte, x.length < 3 → frameComplete (h :: x) s = .ok s) ∧
    ∀ (field : Word) (data : List Byte) (ck : Byte), ck ≠ checksum (slices 2 field ++ data) →
      frameComplete (segmentFrame h field data ck) s = .ok s

/-- R292: a segment frame with a right checksum, one bit of which after the header is flipped, is dropped. -/
def Obligations.ChecksumDetectsBitFlips : Prop :=
  ∀ (s : State) (h : Byte) (x : List Byte) (j k : Nat) (hj : j < x.length), h = 0x01 ∨ h = 0x02 →
    segmentOk (h :: x) = true → k < 8 →
    frameComplete (h :: x.set j (x[j] ^^^ BitVec.twoPow 8 k)) s = .ok s

/-- R296, R298: an init segment whose checksum is right: the tests in order, and the new transfer. -/
def Obligations.InitSegment : Prop :=
  ∀ (s : State) (total : Word) (data : List Byte),
    let f := segmentFrame 0x01 total data (checksum (slices 2 total ++ data))
    let accepted := sendAck { s.writeBytes 0 data with
      confirmedReceived := BitVec.ofNat 16 data.length
      totalLen := total
      imageValid := false
      linkError := false
      cbValid := false }
    (s.params.memCap < total.toNat ∨ total.toNat < data.length → frameComplete f s = .ok s) ∧
    (total.toNat ≤ s.params.memCap → data.length ≤ total.toNat →
      (¬ Quiescent s → frameComplete f s = .error .loadWhileLive) ∧
      (Quiescent s → data.length < total.toNat → frameComplete f s = .ok accepted) ∧
      (Quiescent s → data.length = total.toNat → frameComplete f s = load accepted))

/-- R297, R298: a continuation segment whose checksum is right: a gap and an overrun are dropped, a duplicate is
acknowledged, anything else is written whole, confirmed, acknowledged, and loaded when it completes the
image. -/
def Obligations.ContinuationSegment : Prop :=
  ∀ (s : State) (off : Word) (data : List Byte),
    let f := segmentFrame 0x02 off data (checksum (slices 2 off ++ data))
    let upto := off.toNat + data.length
    let accepted := sendAck { s.writeBytes off.toNat data with confirmedReceived := BitVec.ofNat 16 upto }
    (s.confirmedReceived.toNat < off.toNat → frameComplete f s = .ok s) ∧
    (off.toNat ≤ s.confirmedReceived.toNat →
      (upto ≤ s.confirmedReceived.toNat → frameComplete f s = .ok (sendAck s)) ∧
      (s.confirmedReceived.toNat < upto → s.totalLen.toNat < upto → frameComplete f s = .ok s) ∧
      (s.confirmedReceived.toNat < upto → upto < s.totalLen.toNat → frameComplete f s = .ok accepted) ∧
      (s.confirmedReceived.toNat < upto → upto = s.totalLen.toNat → frameComplete f s = load accepted))

/-- R299: within one transfer `confirmedReceived` never decreases. Neither an instruction, nor an event other
than `Rst` and `RxByte`, changes it; nor does an `RxByte` that closes no frame, or that closes a frame which is
neither a reset frame, nor an accepted init segment, nor a continuation segment; a continuation segment does not
lower it. So only a step that handles `Rst`, or the byte that closes a reset frame or an accepted init segment,
lowers it or changes the announced total. -/
def Obligations.ConfirmedNeverDecreases : Prop :=
  (∀ (i : Instr) (s s' : State), exec i s = .next s' →
    s'.confirmedReceived = s.confirmedReceived ∧ s'.totalLen = s.totalLen) ∧
  (∀ (e : Input) (s : State), e ≠ .rst → (∀ b, e ≠ .rxByte b) →
    (inputEvent e s).confirmedReceived = s.confirmedReceived ∧ (inputEvent e s).totalLen = s.totalLen) ∧
  (∀ (b : Byte) (s : State),
    let s' := inputEvent (.rxByte b) s
    ((∀ f, ¬ ClosesFrame s b f) → s'.confirmedReceived = s.confirmedReceived ∧ s'.totalLen = s.totalLen) ∧
    ∀ h x, ClosesFrame s b (h :: x) →
      (h ≠ 0x02 → h ≠ 0x04 → ¬ AcceptedInit s (h :: x) →
        s'.confirmedReceived = s.confirmedReceived ∧ s'.totalLen = s.totalLen) ∧
      (h = 0x02 → s.confirmedReceived.toNat ≤ s'.confirmedReceived.toNat ∧ s'.totalLen = s.totalLen)) ∧
  ∀ s s' : State, step s = .next s' →
    s'.confirmedReceived.toNat < s.confirmedReceived.toNat ∨ s'.totalLen ≠ s.totalLen →
    ∃ rest, s.inputs = .input .rst :: rest ∨
      ∃ b h x, s.inputs = .input (.rxByte b) :: rest ∧ ClosesFrame s b (h :: x) ∧
        (h = 0x04 ∨ AcceptedInit s (h :: x))

/-- R300: the acknowledgment is the escaped frame `03`, the count low byte first, `00`, between delimiters; if
the ring rejects it, it is lost. -/
def Obligations.Acknowledgment : Prop :=
  (∀ s : State,
    let wire := (0x7E : Byte) :: (wireEncode ([0x03] ++ slices 2 s.confirmedReceived ++ [0x00]) ++ [0x7E])
    (∀ q, enqueue wire s = some q → sendAck s = q) ∧ (enqueue wire s = none → sendAck s = s)) ∧
  wireEncode ([0x03] ++ slices 2 (0x007E : Word) ++ [0x00]) = [0x03, 0x7D, 0x5E, 0x00, 0x00]

/-! ## The loader -/

/-- R322: the shift moves the body down by eight bytes and touches nothing else. -/
def Obligations.ShiftMovesBody : Prop :=
  ∀ (n : Nat) (s : State),
    shiftImage 0 n s = { s with mem := (shiftImage 0 n s).mem } ∧
    ∀ a, (shiftImage 0 n s).byteAt a = if a < n then s.byteAt (a + 8) else s.byteAt a

/-- R321, R323, R332: an image too short for a header, or with a bad header, ends the load in a link error, the
body shifted in the second case, and nothing else changed. -/
def Obligations.BadHeaderIsLinkError : Prop :=
  ∀ s : State,
    let eps : Nat × Nat × Nat := ((s.valueAt 16 2).toNat, (s.valueAt 16 4).toNat, (s.valueAt 16 6).toNat)
    let n := s.totalLen.toNat - 8
    (s.totalLen.toNat < 8 → load s = .ok { s with imageValid := false, linkError := true }) ∧
    (8 ≤ s.totalLen.toNat →
      ¬ (eps.1 ≤ eps.2.2 ∧ eps.2.2 ≤ n ∧ eps.2.2 ≤ s.params.memCap ∧ eps.1 ≤ eps.2.1 ∧ eps.2.1 < eps.2.2) →
      load s = .ok { shiftImage 0 n s with imageValid := false, linkError := true })

/-- R325 to R327, R332: one turn of the walk at `p`: an unassigned opcode, a received ECALL, an instruction that
crosses `xb`, and a CALL of a target at or above `xb` where no native's name stands, end it in a link error; a CALL
of a native's name becomes the ECALL of its id; every other instruction is left as received; and the walk goes on
after it. As many turns as bytes are enough. The walk from `p` to `xb` changes nothing but bytes of `[p, xb)`, and
where it succeeds the section holds whole instructions, every CALL's target lies below the boundary, and every
ECALL carries the id of a native (R112). -/
def Obligations.WalkLinksSection : Prop :=
  (∀ (xb n fuel p : Nat) (s : State),
    (xb ≤ p → linkWalk xb n fuel p s = (s, true)) ∧
    (p < xb →
      let w := linkWalk xb n (fuel + 1) p s
      ((∀ i, (encode i).head? ≠ some (s.byteAt p)) → w = (s, false)) ∧
      (s.byteAt p = 0x63 → w = (s, false)) ∧
      (∀ i, (encode i).head? = some (s.byteAt p) → xb < p + (encode i).length → w = (s, false)) ∧
      (∀ i, (encode i).head? = some (s.byteAt p) → s.byteAt p ≠ 0x61 → s.byteAt p ≠ 0x63 →
        p + (encode i).length ≤ xb → w = linkWalk xb n fuel (p + (encode i).length) s) ∧
      (s.byteAt p = 0x61 → p + 3 ≤ xb →
        let t := (s.valueAt 16 (p + 1)).toNat
        (t < xb → w = linkWalk xb n fuel (p + 3) s) ∧
        (xb ≤ t →
          ((∀ r ∈ nativeStrings, ¬ NameStands s n t r.1) → w = (s, false)) ∧
          ∀ r ∈ nativeStrings, NameStands s n t r.1 →
            w = linkWalk xb n fuel (p + 3) (s.writeBytes p [0x63, r.2, 0x00]))))) ∧
  (∀ (xb n p f g : Nat) (s : State), xb ≤ p + f → xb ≤ p + g → linkWalk xb n f p s = linkWalk xb n g p s) ∧
  ∀ (xb n fuel p : Nat) (s : State),
    let r := linkWalk xb n fuel p s
    r.1 = { s with mem := r.1.mem } ∧
    (∀ a, a < p ∨ xb ≤ a → r.1.byteAt a = s.byteAt a) ∧
    (r.2 = true → linkedFrom xb fuel p r.1 = true)

/-- R330: the stacks are carved contiguous in thread order from the extern boundary to `MEM_CAP`, evenly, the
remainder to the first thread; every record is free with `pc = fp = 0` and an empty stack. These are the regions
of R330's pseudocode; log 14 is about its prose on dispatches where `per < 4`. -/
def Obligations.StacksAreCarved : Prop :=
  ∀ (p : Params) (xb : Nat), p.ok = true → xb ≤ p.memCap →
    (carvedThreads p xb).length = p.nThreads ∧
    ∀ t T, (carvedThreads p xb)[t]? = some T →
      T.bottom.toNat = xb + (if t = 0 then 0 else (p.memCap - xb) % p.nThreads) +
        t * ((p.memCap - xb) / p.nThreads) ∧
      T.top.toNat = xb + (p.memCap - xb) % p.nThreads + (t + 1) * ((p.memCap - xb) / p.nThreads) ∧
      (t + 1 = p.nThreads → T.top.toNat = p.memCap) ∧
      (∀ U, (carvedThreads p xb)[t + 1]? = some U → U.bottom = T.top) ∧
      T.pc = 0 ∧ T.sp = T.bottom ∧ T.fp = 0 ∧ T.free = true

/-- R320, R325, R330, R331, R332: an image with a good header is walked; a link error leaves it unpublished with
the walk's memory; else the stacks are carved and zeroed, the image is published, and its entry point is
scheduled in the first free bin. -/
def Obligations.LoadLinksAndPublishes : Prop :=
  ∀ (s : State) (b : Nat) (rest : List Nat),
    let eo : Word := s.valueAt 16 0
    let ps : Word := s.valueAt 16 2
    let ep : Word := s.valueAt 16 4
    let xb : Word := s.valueAt 16 6
    let n := s.totalLen.toNat - 8
    let w := linkWalk xb.toNat n xb.toNat ps.toNat (shiftImage 0 n s)
    8 ≤ s.totalLen.toNat → ps.toNat ≤ ep.toNat → ep.toNat < xb.toNat → xb.toNat ≤ n →
    xb.toNat ≤ s.params.memCap → s.binFree = b :: rest → b < s.bins.length →
    (w.2 = false → load s = .ok { w.1 with imageValid := false, linkError := true }) ∧
    (w.2 = true → ∃ s', load s = .ok s' ∧
      s' = { s with
        mem := s'.mem
        threads := carvedThreads s.params xb.toNat
        threadFree := List.range s.params.nThreads
        bins := s.bins.set b { s.bin b with argSize := 0, method := ep, origin := none, free := false }
        binFree := rest
        progStart := ps
        externB := xb
        imageValid := true
        linkError := false
        outputs := s.outputs ++ [.schedAsync eo 0 0 b] } ∧
      (∀ a, xb.toNat ≤ a → a < s.params.memCap → s'.byteAt a = 0) ∧
      ∀ a, a < xb.toNat ∨ s.params.memCap ≤ a → s'.byteAt a = w.1.byteAt a)

/-! ## The whole machine -/

/-- R46, R49, R50, R51, R70: no instruction changes the link's receiving state, the session or the image status;
and only ECALL changes the LED, the callback or the transmit ring. -/
def Obligations.InstructionsLeaveTheLink : Prop :=
  ∀ (i : Instr) (s s' : State), exec i s = .next s' →
    (s'.escPending = s.escPending ∧ s'.fstate = s.fstate ∧ s'.fbuf = s.fbuf ∧ s'.flen = s.flen ∧
      s'.fovf = s.fovf) ∧
    (s'.confirmedReceived = s.confirmedReceived ∧ s'.totalLen = s.totalLen) ∧
    (s'.imageValid = s.imageValid ∧ s'.progStart = s.progStart ∧ s'.externB = s.externB ∧
      s'.linkError = s.linkError) ∧
    (s'.params = s.params ∧ s'.resets = s.resets ∧ s'.inputs = s.inputs) ∧
    ((∀ id, i ≠ .ecall id) → s'.led = s.led ∧ s'.cbValid = s.cbValid ∧ s'.cbObj = s.cbObj ∧
      s'.cbMethod = s.cbMethod ∧ s'.ring = s.ring ∧ s'.txHead = s.txHead ∧ s'.txCount = s.txCount ∧
      s'.txActive = s.txActive)

/-- R31, R32: an instruction moves the registers of the current thread only, and the bounds of no stack. -/
def Obligations.InstructionsLeaveOtherThreads : Prop :=
  ∀ (i : Instr) (s s' : State) (t : Nat), s.cur? = some t → exec i s = .next s' →
    s'.threads.length = s.threads.length ∧
    (∀ u, u ≠ t → s'.thread u = s.thread u) ∧
    (s'.thread t).bottom = (s.thread t).bottom ∧ (s'.thread t).top = (s.thread t).top

/-- R64, R299, R350: the invariant holds after reset, with the parameters the model takes there (log 3). -/
def Obligations.InvariantAtReset : Prop := Inv State.reset ∧ DefinedOk State.reset

/-- R64, R299, R350: every step keeps the invariant, from every state that has it. -/
def Obligations.InvariantIsKept : Prop :=
  ∀ s s' : State, Inv s → step s = .next s' → Inv s'

/-- R85, R401: in every state with the invariant, a step keeps every byte that a rule may read among the bytes
written since the last reset: no free value is met. -/
def Obligations.DefinednessIsKept : Prop :=
  ∀ s s' : State, Inv s → DefinedOk s → step s = .next s' → DefinedOk s'
end

