-- ==== Sys2Proof/Laws/Memory.lean ====
section
/-! SUPPORT. Laws of storages: read after write, the canonical form, capacities, little-endian bytes. -/

namespace Sys2Proof

theorem leBytes_length (k v : Nat) : (leBytes k v).length = k := by
  induction k generalizing v with
  | zero => rfl
  | succ k ih => simp [leBytes, ih]

theorem leNat_leBytes (k v : Nat) : leNat (leBytes k v) = v % 256 ^ k := by
  induction k generalizing v with
  | zero => simp [leBytes, leNat, Nat.mod_one]
  | succ k ih =>
    simp only [leBytes, leNat, ih, BitVec.toNat_ofNat]
    have h : (256 : Nat) ^ (k + 1) = 256 * 256 ^ k := by rw [Nat.pow_succ, Nat.mul_comm]
    rw [h, Nat.mod_mul]

theorem leNat_lt (bs : List Byte) : leNat bs < 256 ^ bs.length := by
  induction bs with
  | nil => simp [leNat]
  | cons b bs ih =>
    have hb := b.isLt
    simp only [leNat, List.length_cons, Nat.pow_succ]
    omega

theorem leBytes_leNat (bs : List Byte) : leBytes bs.length (leNat bs) = bs := by
  induction bs with
  | nil => rfl
  | cons b bs ih =>
    have hb := b.isLt
    have h1 : (b.toNat + 256 * leNat bs) / 256 = leNat bs := by omega
    have h2 : BitVec.ofNat 8 (b.toNat + 256 * leNat bs) = b := by
      apply BitVec.eq_of_toNat_eq
      simp only [BitVec.toNat_ofNat]
      omega
    simp [leBytes, leNat, h1, h2, ih]

end Sys2Proof

namespace Sys2Proof.Machine

@[simp] theorem Memory.get?_put_same (m : Memory) (a : Nat) (b : Byte) :
    Memory.get? (Memory.put m a b) a = some b := by
  induction m with
  | nil => simp [Memory.put, Memory.get?]
  | cons c m ih =>
    obtain ⟨a', b'⟩ := c
    simp only [Memory.put]
    split
    · simp [Memory.get?]
    · split
      · simp [Memory.get?]
      · rename_i h
        simp [Memory.get?, h, ih]

theorem Memory.get?_put_other (m : Memory) (a x : Nat) (b : Byte) (h : x ≠ a) :
    Memory.get? (Memory.put m a b) x = Memory.get? m x := by
  induction m with
  | nil => simp [Memory.put, Memory.get?, Ne.symm h]
  | cons c m ih =>
    obtain ⟨a', b'⟩ := c
    simp only [Memory.put]
    split
    · simp [Memory.get?, Ne.symm h]
    · split
      · rename_i h'
        subst h'
        simp [Memory.get?, Ne.symm h]
      · simp [Memory.get?, ih]

theorem Memory.get?_putAll_outside (m : Memory) (a : Nat) (bs : List Byte) (x : Nat)
    (h : x < a ∨ a + bs.length ≤ x) : Memory.get? (Memory.putAll m a bs) x = Memory.get? m x := by
  induction bs generalizing m a with
  | nil => rfl
  | cons b bs ih =>
    simp only [List.length_cons] at h
    simp only [Memory.putAll]
    rw [ih _ _ (by omega), Memory.get?_put_other _ _ _ _ (by omega)]

theorem Memory.get?_putAll_inside (m : Memory) (a : Nat) (bs : List Byte) (i : Nat) (h : i < bs.length) :
    Memory.get? (Memory.putAll m a bs) (a + i) = some bs[i] := by
  induction bs generalizing m a i with
  | nil => simp at h
  | cons b bs ih =>
    simp only [Memory.putAll]
    cases i with
    | zero =>
      rw [Memory.get?_putAll_outside _ _ _ _ (by omega)]
      simp
    | succ i =>
      have := ih (Memory.put m a b) (a + 1) i (by simpa using h)
      simpa [Nat.add_assoc, Nat.add_comm 1 i] using this

/-- A write of one byte keeps every byte that was written written. -/
theorem Memory.isSome_get?_put (m : Memory) (a x : Nat) (b : Byte) (h : (Memory.get? m x).isSome = true) :
    (Memory.get? (Memory.put m a b) x).isSome = true := by
  by_cases hx : x = a
  · subst hx; simp
  · rwa [Memory.get?_put_other _ _ _ _ hx]

/-- A write keeps every byte that was written written. -/
theorem Memory.isSome_get?_putAll (m : Memory) (a : Nat) (bs : List Byte) (x : Nat)
    (h : (Memory.get? m x).isSome = true) : (Memory.get? (Memory.putAll m a bs) x).isSome = true := by
  induction bs generalizing m a with
  | nil => exact h
  | cons b bs ih => exact ih _ _ (Memory.isSome_get?_put _ _ _ _ h)

/-! ## The canonical form -/

theorem Memory.wfAbove_put (lo : Nat) (m : Memory) (a : Nat) (b : Byte) (hlo : lo < a)
    (h : Memory.wfAbove lo m = true) : Memory.wfAbove lo (Memory.put m a b) = true := by
  induction m generalizing lo with
  | nil => simp [Memory.put, Memory.wfAbove, hlo]
  | cons c m ih =>
    obtain ⟨a', b'⟩ := c
    simp only [Memory.wfAbove, Bool.and_eq_true, decide_eq_true_eq] at h
    simp only [Memory.put]
    split
    · simp [Memory.wfAbove, hlo, h.2]
      omega
    · split
      · rename_i h'
        subst h'
        simp [Memory.wfAbove, hlo, h.2]
      · simp only [Memory.wfAbove, Bool.and_eq_true, decide_eq_true_eq]
        exact ⟨h.1, ih _ (by omega) h.2⟩

/-- Writing a byte keeps the canonical form. -/
theorem Memory.wf_put (m : Memory) (a : Nat) (b : Byte) (h : Memory.wf m = true) :
    Memory.wf (Memory.put m a b) = true := by
  cases m with
  | nil => rfl
  | cons c m =>
    obtain ⟨a', b'⟩ := c
    simp only [Memory.wf] at h
    simp only [Memory.put]
    split
    · simp [Memory.wf, Memory.wfAbove, h]
      omega
    · split
      · rename_i h'
        subst h'
        simpa [Memory.wf] using h
      · exact Memory.wfAbove_put _ _ _ _ (by omega) h

/-- Writing bytes keeps the canonical form. -/
theorem Memory.wf_putAll (m : Memory) (a : Nat) (bs : List Byte) (h : Memory.wf m = true) :
    Memory.wf (Memory.putAll m a bs) = true := by
  induction bs generalizing m a with
  | nil => exact h
  | cons b bs ih => exact ih _ _ (Memory.wf_put _ _ _ h)

/-- Writing a byte below a capacity keeps the storage within it. -/
theorem Memory.within_put (cap : Nat) (m : Memory) (a : Nat) (b : Byte) (ha : a < cap)
    (h : Memory.within cap m = true) : Memory.within cap (Memory.put m a b) = true := by
  induction m with
  | nil => simp [Memory.put, Memory.within, ha]
  | cons c m ih =>
    obtain ⟨a', b'⟩ := c
    simp only [Memory.within, List.all_cons, Bool.and_eq_true, decide_eq_true_eq] at h ih
    simp only [Memory.put]
    split
    · simp only [Memory.within, List.all_cons, Bool.and_eq_true, decide_eq_true_eq]
      exact ⟨ha, h⟩
    · split
      · simp only [Memory.within, List.all_cons, Bool.and_eq_true, decide_eq_true_eq]
        exact ⟨ha, h.2⟩
      · simp only [Memory.within, List.all_cons, Bool.and_eq_true, decide_eq_true_eq]
        exact ⟨h.1, ih h.2⟩

/-- Writing bytes that end below a capacity keeps the storage within it. -/
theorem Memory.within_putAll (cap : Nat) (m : Memory) (a : Nat) (bs : List Byte) (ha : a + bs.length ≤ cap)
    (h : Memory.within cap m = true) : Memory.within cap (Memory.putAll m a bs) = true := by
  induction bs generalizing m a with
  | nil => exact h
  | cons b bs ih =>
    simp only [List.length_cons] at ha
    exact ih _ _ (by omega) (Memory.within_put _ _ _ _ (by omega) h)

/-! ## Reading -/

theorem Memory.byteOr_put_same (n : Nat) (sp : Space) (m : Memory) (a : Nat) (b : Byte) :
    Memory.byteOr n sp (Memory.put m a b) a = b := by simp [Memory.byteOr]

theorem Memory.byteOr_congr (n : Nat) (sp : Space) (m m' : Memory) (a : Nat)
    (h : Memory.get? m a = Memory.get? m' a) : Memory.byteOr n sp m a = Memory.byteOr n sp m' a := by
  simp [Memory.byteOr, h]

@[simp] theorem Memory.bytes_length (n : Nat) (sp : Space) (m : Memory) (a k : Nat) :
    (Memory.bytes n sp m a k).length = k := by
  induction k generalizing a with
  | zero => rfl
  | succ k ih => simp [Memory.bytes, ih]

theorem Memory.bytes_congr (n : Nat) (sp : Space) (m m' : Memory) (a k : Nat)
    (h : ∀ x, a ≤ x → x < a + k → Memory.byteOr n sp m x = Memory.byteOr n sp m' x) :
    Memory.bytes n sp m a k = Memory.bytes n sp m' a k := by
  induction k generalizing a with
  | zero => rfl
  | succ k ih =>
    simp only [Memory.bytes]
    rw [h a (by omega) (by omega), ih (a + 1) (fun x h1 h2 => h x (by omega) (by omega))]

theorem Memory.bytes_add (n : Nat) (sp : Space) (m : Memory) (a j k : Nat) :
    Memory.bytes n sp m a (j + k) = Memory.bytes n sp m a j ++ Memory.bytes n sp m (a + j) k := by
  induction j generalizing a with
  | zero => simp [Memory.bytes]
  | succ j ih =>
    rw [Nat.succ_add]
    simp only [Memory.bytes, List.cons_append, ih]
    rw [Nat.add_assoc, Nat.add_comm 1 j]

theorem Memory.bytes_of_get? (n : Nat) (sp : Space) (m : Memory) (a : Nat) (bs : List Byte)
    (h : ∀ i (hi : i < bs.length), Memory.get? m (a + i) = some bs[i]) :
    Memory.bytes n sp m a bs.length = bs := by
  induction bs generalizing a with
  | nil => rfl
  | cons b bs ih =>
    have h0 := h 0 (by simp)
    simp only [Nat.add_zero, List.getElem_cons_zero] at h0
    simp only [List.length_cons, Memory.bytes]
    rw [ih (a + 1) (fun i hi => by
      have := h (i + 1) (by simpa using hi)
      simpa [Nat.add_assoc, Nat.add_comm 1 i] using this)]
    simp [Memory.byteOr, h0]

/-- Read what has just been written (R72, R73). -/
theorem Memory.bytes_putAll (n : Nat) (sp : Space) (m : Memory) (a : Nat) (bs : List Byte) :
    Memory.bytes n sp (Memory.putAll m a bs) a bs.length = bs :=
  Memory.bytes_of_get? _ _ _ _ _ (fun i hi => Memory.get?_putAll_inside m a bs i hi)

end Sys2Proof.Machine
end

