-- ==== Sys2Proof/Laws/State.lean ====
section
/-! SUPPORT. For each update of the state, what every other field reads after it: one lemma per field, true by
`rfl`, so that no proof unfolds a record update. -/

namespace Sys2Proof.Machine

/-! ## setThread -/

@[simp] theorem setThread_mem (s : State) (t : Nat) (r : Thread) : (s.setThread t r).mem = s.mem := rfl

@[simp] theorem setThread_threadFree (s : State) (t : Nat) (r : Thread) : (s.setThread t r).threadFree = s.threadFree := rfl

@[simp] theorem setThread_bins (s : State) (t : Nat) (r : Thread) : (s.setThread t r).bins = s.bins := rfl

@[simp] theorem setThread_binFree (s : State) (t : Nat) (r : Thread) : (s.setThread t r).binFree = s.binFree := rfl

@[simp] theorem setThread_actStack (s : State) (t : Nat) (r : Thread) : (s.setThread t r).actStack = s.actStack := rfl

@[simp] theorem setThread_syncWait (s : State) (t : Nat) (r : Thread) : (s.setThread t r).syncWait = s.syncWait := rfl

@[simp] theorem setThread_imageValid (s : State) (t : Nat) (r : Thread) : (s.setThread t r).imageValid = s.imageValid := rfl

@[simp] theorem setThread_progStart (s : State) (t : Nat) (r : Thread) : (s.setThread t r).progStart = s.progStart := rfl

@[simp] theorem setThread_externB (s : State) (t : Nat) (r : Thread) : (s.setThread t r).externB = s.externB := rfl

@[simp] theorem setThread_linkError (s : State) (t : Nat) (r : Thread) : (s.setThread t r).linkError = s.linkError := rfl

@[simp] theorem setThread_cbValid (s : State) (t : Nat) (r : Thread) : (s.setThread t r).cbValid = s.cbValid := rfl

@[simp] theorem setThread_cbObj (s : State) (t : Nat) (r : Thread) : (s.setThread t r).cbObj = s.cbObj := rfl

@[simp] theorem setThread_cbMethod (s : State) (t : Nat) (r : Thread) : (s.setThread t r).cbMethod = s.cbMethod := rfl

@[simp] theorem setThread_confirmedReceived (s : State) (t : Nat) (r : Thread) : (s.setThread t r).confirmedReceived = s.confirmedReceived := rfl

@[simp] theorem setThread_totalLen (s : State) (t : Nat) (r : Thread) : (s.setThread t r).totalLen = s.totalLen := rfl

@[simp] theorem setThread_escPending (s : State) (t : Nat) (r : Thread) : (s.setThread t r).escPending = s.escPending := rfl

@[simp] theorem setThread_fstate (s : State) (t : Nat) (r : Thread) : (s.setThread t r).fstate = s.fstate := rfl

@[simp] theorem setThread_fbuf (s : State) (t : Nat) (r : Thread) : (s.setThread t r).fbuf = s.fbuf := rfl

@[simp] theorem setThread_flen (s : State) (t : Nat) (r : Thread) : (s.setThread t r).flen = s.flen := rfl

@[simp] theorem setThread_fovf (s : State) (t : Nat) (r : Thread) : (s.setThread t r).fovf = s.fovf := rfl

@[simp] theorem setThread_ring (s : State) (t : Nat) (r : Thread) : (s.setThread t r).ring = s.ring := rfl

@[simp] theorem setThread_txHead (s : State) (t : Nat) (r : Thread) : (s.setThread t r).txHead = s.txHead := rfl

@[simp] theorem setThread_txCount (s : State) (t : Nat) (r : Thread) : (s.setThread t r).txCount = s.txCount := rfl

@[simp] theorem setThread_txActive (s : State) (t : Nat) (r : Thread) : (s.setThread t r).txActive = s.txActive := rfl

@[simp] theorem setThread_led (s : State) (t : Nat) (r : Thread) : (s.setThread t r).led = s.led := rfl

@[simp] theorem setThread_fault (s : State) (t : Nat) (r : Thread) : (s.setThread t r).fault = s.fault := rfl

@[simp] theorem setThread_params (s : State) (t : Nat) (r : Thread) : (s.setThread t r).params = s.params := rfl

@[simp] theorem setThread_resets (s : State) (t : Nat) (r : Thread) : (s.setThread t r).resets = s.resets := rfl

@[simp] theorem setThread_inputs (s : State) (t : Nat) (r : Thread) : (s.setThread t r).inputs = s.inputs := rfl

@[simp] theorem setThread_outputs (s : State) (t : Nat) (r : Thread) : (s.setThread t r).outputs = s.outputs := rfl

@[simp] theorem setThread_threads (s : State) (t : Nat) (r : Thread) :
    (s.setThread t r).threads = s.threads.set t r := rfl

/-! ## setBin -/

@[simp] theorem setBin_mem (s : State) (b : Nat) (r : Bin) : (s.setBin b r).mem = s.mem := rfl

@[simp] theorem setBin_threads (s : State) (b : Nat) (r : Bin) : (s.setBin b r).threads = s.threads := rfl

@[simp] theorem setBin_threadFree (s : State) (b : Nat) (r : Bin) : (s.setBin b r).threadFree = s.threadFree := rfl

@[simp] theorem setBin_binFree (s : State) (b : Nat) (r : Bin) : (s.setBin b r).binFree = s.binFree := rfl

@[simp] theorem setBin_actStack (s : State) (b : Nat) (r : Bin) : (s.setBin b r).actStack = s.actStack := rfl

@[simp] theorem setBin_syncWait (s : State) (b : Nat) (r : Bin) : (s.setBin b r).syncWait = s.syncWait := rfl

@[simp] theorem setBin_imageValid (s : State) (b : Nat) (r : Bin) : (s.setBin b r).imageValid = s.imageValid := rfl

@[simp] theorem setBin_progStart (s : State) (b : Nat) (r : Bin) : (s.setBin b r).progStart = s.progStart := rfl

@[simp] theorem setBin_externB (s : State) (b : Nat) (r : Bin) : (s.setBin b r).externB = s.externB := rfl

@[simp] theorem setBin_linkError (s : State) (b : Nat) (r : Bin) : (s.setBin b r).linkError = s.linkError := rfl

@[simp] theorem setBin_cbValid (s : State) (b : Nat) (r : Bin) : (s.setBin b r).cbValid = s.cbValid := rfl

@[simp] theorem setBin_cbObj (s : State) (b : Nat) (r : Bin) : (s.setBin b r).cbObj = s.cbObj := rfl

@[simp] theorem setBin_cbMethod (s : State) (b : Nat) (r : Bin) : (s.setBin b r).cbMethod = s.cbMethod := rfl

@[simp] theorem setBin_confirmedReceived (s : State) (b : Nat) (r : Bin) : (s.setBin b r).confirmedReceived = s.confirmedReceived := rfl

@[simp] theorem setBin_totalLen (s : State) (b : Nat) (r : Bin) : (s.setBin b r).totalLen = s.totalLen := rfl

@[simp] theorem setBin_escPending (s : State) (b : Nat) (r : Bin) : (s.setBin b r).escPending = s.escPending := rfl

@[simp] theorem setBin_fstate (s : State) (b : Nat) (r : Bin) : (s.setBin b r).fstate = s.fstate := rfl

@[simp] theorem setBin_fbuf (s : State) (b : Nat) (r : Bin) : (s.setBin b r).fbuf = s.fbuf := rfl

@[simp] theorem setBin_flen (s : State) (b : Nat) (r : Bin) : (s.setBin b r).flen = s.flen := rfl

@[simp] theorem setBin_fovf (s : State) (b : Nat) (r : Bin) : (s.setBin b r).fovf = s.fovf := rfl

@[simp] theorem setBin_ring (s : State) (b : Nat) (r : Bin) : (s.setBin b r).ring = s.ring := rfl

@[simp] theorem setBin_txHead (s : State) (b : Nat) (r : Bin) : (s.setBin b r).txHead = s.txHead := rfl

@[simp] theorem setBin_txCount (s : State) (b : Nat) (r : Bin) : (s.setBin b r).txCount = s.txCount := rfl

@[simp] theorem setBin_txActive (s : State) (b : Nat) (r : Bin) : (s.setBin b r).txActive = s.txActive := rfl

@[simp] theorem setBin_led (s : State) (b : Nat) (r : Bin) : (s.setBin b r).led = s.led := rfl

@[simp] theorem setBin_fault (s : State) (b : Nat) (r : Bin) : (s.setBin b r).fault = s.fault := rfl

@[simp] theorem setBin_params (s : State) (b : Nat) (r : Bin) : (s.setBin b r).params = s.params := rfl

@[simp] theorem setBin_resets (s : State) (b : Nat) (r : Bin) : (s.setBin b r).resets = s.resets := rfl

@[simp] theorem setBin_inputs (s : State) (b : Nat) (r : Bin) : (s.setBin b r).inputs = s.inputs := rfl

@[simp] theorem setBin_outputs (s : State) (b : Nat) (r : Bin) : (s.setBin b r).outputs = s.outputs := rfl

@[simp] theorem setBin_bins (s : State) (b : Nat) (r : Bin) : (s.setBin b r).bins = s.bins.set b r := rfl

/-! ## writeBytes -/

@[simp] theorem writeBytes_threads (s : State) (a : Nat) (bs : List Byte) : (s.writeBytes a bs).threads = s.threads := rfl

@[simp] theorem writeBytes_threadFree (s : State) (a : Nat) (bs : List Byte) : (s.writeBytes a bs).threadFree = s.threadFree := rfl

@[simp] theorem writeBytes_bins (s : State) (a : Nat) (bs : List Byte) : (s.writeBytes a bs).bins = s.bins := rfl

@[simp] theorem writeBytes_binFree (s : State) (a : Nat) (bs : List Byte) : (s.writeBytes a bs).binFree = s.binFree := rfl

@[simp] theorem writeBytes_actStack (s : State) (a : Nat) (bs : List Byte) : (s.writeBytes a bs).actStack = s.actStack := rfl

@[simp] theorem writeBytes_syncWait (s : State) (a : Nat) (bs : List Byte) : (s.writeBytes a bs).syncWait = s.syncWait := rfl

@[simp] theorem writeBytes_imageValid (s : State) (a : Nat) (bs : List Byte) : (s.writeBytes a bs).imageValid = s.imageValid := rfl

@[simp] theorem writeBytes_progStart (s : State) (a : Nat) (bs : List Byte) : (s.writeBytes a bs).progStart = s.progStart := rfl

@[simp] theorem writeBytes_externB (s : State) (a : Nat) (bs : List Byte) : (s.writeBytes a bs).externB = s.externB := rfl

@[simp] theorem writeBytes_linkError (s : State) (a : Nat) (bs : List Byte) : (s.writeBytes a bs).linkError = s.linkError := rfl

@[simp] theorem writeBytes_cbValid (s : State) (a : Nat) (bs : List Byte) : (s.writeBytes a bs).cbValid = s.cbValid := rfl

@[simp] theorem writeBytes_cbObj (s : State) (a : Nat) (bs : List Byte) : (s.writeBytes a bs).cbObj = s.cbObj := rfl

@[simp] theorem writeBytes_cbMethod (s : State) (a : Nat) (bs : List Byte) : (s.writeBytes a bs).cbMethod = s.cbMethod := rfl

@[simp] theorem writeBytes_confirmedReceived (s : State) (a : Nat) (bs : List Byte) : (s.writeBytes a bs).confirmedReceived = s.confirmedReceived := rfl

@[simp] theorem writeBytes_totalLen (s : State) (a : Nat) (bs : List Byte) : (s.writeBytes a bs).totalLen = s.totalLen := rfl

@[simp] theorem writeBytes_escPending (s : State) (a : Nat) (bs : List Byte) : (s.writeBytes a bs).escPending = s.escPending := rfl

@[simp] theorem writeBytes_fstate (s : State) (a : Nat) (bs : List Byte) : (s.writeBytes a bs).fstate = s.fstate := rfl

@[simp] theorem writeBytes_fbuf (s : State) (a : Nat) (bs : List Byte) : (s.writeBytes a bs).fbuf = s.fbuf := rfl

@[simp] theorem writeBytes_flen (s : State) (a : Nat) (bs : List Byte) : (s.writeBytes a bs).flen = s.flen := rfl

@[simp] theorem writeBytes_fovf (s : State) (a : Nat) (bs : List Byte) : (s.writeBytes a bs).fovf = s.fovf := rfl

@[simp] theorem writeBytes_ring (s : State) (a : Nat) (bs : List Byte) : (s.writeBytes a bs).ring = s.ring := rfl

@[simp] theorem writeBytes_txHead (s : State) (a : Nat) (bs : List Byte) : (s.writeBytes a bs).txHead = s.txHead := rfl

@[simp] theorem writeBytes_txCount (s : State) (a : Nat) (bs : List Byte) : (s.writeBytes a bs).txCount = s.txCount := rfl

@[simp] theorem writeBytes_txActive (s : State) (a : Nat) (bs : List Byte) : (s.writeBytes a bs).txActive = s.txActive := rfl

@[simp] theorem writeBytes_led (s : State) (a : Nat) (bs : List Byte) : (s.writeBytes a bs).led = s.led := rfl

@[simp] theorem writeBytes_fault (s : State) (a : Nat) (bs : List Byte) : (s.writeBytes a bs).fault = s.fault := rfl

@[simp] theorem writeBytes_params (s : State) (a : Nat) (bs : List Byte) : (s.writeBytes a bs).params = s.params := rfl

@[simp] theorem writeBytes_resets (s : State) (a : Nat) (bs : List Byte) : (s.writeBytes a bs).resets = s.resets := rfl

@[simp] theorem writeBytes_inputs (s : State) (a : Nat) (bs : List Byte) : (s.writeBytes a bs).inputs = s.inputs := rfl

@[simp] theorem writeBytes_outputs (s : State) (a : Nat) (bs : List Byte) : (s.writeBytes a bs).outputs = s.outputs := rfl

@[simp] theorem writeBytes_mem (s : State) (a : Nat) (bs : List Byte) :
    (s.writeBytes a bs).mem = Memory.putAll s.mem a bs := rfl

/-! ## emit -/

@[simp] theorem emit_mem (e : Output) (s : State) : (emit e s).mem = s.mem := rfl

@[simp] theorem emit_threads (e : Output) (s : State) : (emit e s).threads = s.threads := rfl

@[simp] theorem emit_threadFree (e : Output) (s : State) : (emit e s).threadFree = s.threadFree := rfl

@[simp] theorem emit_bins (e : Output) (s : State) : (emit e s).bins = s.bins := rfl

@[simp] theorem emit_binFree (e : Output) (s : State) : (emit e s).binFree = s.binFree := rfl

@[simp] theorem emit_actStack (e : Output) (s : State) : (emit e s).actStack = s.actStack := rfl

@[simp] theorem emit_syncWait (e : Output) (s : State) : (emit e s).syncWait = s.syncWait := rfl

@[simp] theorem emit_imageValid (e : Output) (s : State) : (emit e s).imageValid = s.imageValid := rfl

@[simp] theorem emit_progStart (e : Output) (s : State) : (emit e s).progStart = s.progStart := rfl

@[simp] theorem emit_externB (e : Output) (s : State) : (emit e s).externB = s.externB := rfl

@[simp] theorem emit_linkError (e : Output) (s : State) : (emit e s).linkError = s.linkError := rfl

@[simp] theorem emit_cbValid (e : Output) (s : State) : (emit e s).cbValid = s.cbValid := rfl

@[simp] theorem emit_cbObj (e : Output) (s : State) : (emit e s).cbObj = s.cbObj := rfl

@[simp] theorem emit_cbMethod (e : Output) (s : State) : (emit e s).cbMethod = s.cbMethod := rfl

@[simp] theorem emit_confirmedReceived (e : Output) (s : State) : (emit e s).confirmedReceived = s.confirmedReceived := rfl

@[simp] theorem emit_totalLen (e : Output) (s : State) : (emit e s).totalLen = s.totalLen := rfl

@[simp] theorem emit_escPending (e : Output) (s : State) : (emit e s).escPending = s.escPending := rfl

@[simp] theorem emit_fstate (e : Output) (s : State) : (emit e s).fstate = s.fstate := rfl

@[simp] theorem emit_fbuf (e : Output) (s : State) : (emit e s).fbuf = s.fbuf := rfl

@[simp] theorem emit_flen (e : Output) (s : State) : (emit e s).flen = s.flen := rfl

@[simp] theorem emit_fovf (e : Output) (s : State) : (emit e s).fovf = s.fovf := rfl

@[simp] theorem emit_ring (e : Output) (s : State) : (emit e s).ring = s.ring := rfl

@[simp] theorem emit_txHead (e : Output) (s : State) : (emit e s).txHead = s.txHead := rfl

@[simp] theorem emit_txCount (e : Output) (s : State) : (emit e s).txCount = s.txCount := rfl

@[simp] theorem emit_txActive (e : Output) (s : State) : (emit e s).txActive = s.txActive := rfl

@[simp] theorem emit_led (e : Output) (s : State) : (emit e s).led = s.led := rfl

@[simp] theorem emit_fault (e : Output) (s : State) : (emit e s).fault = s.fault := rfl

@[simp] theorem emit_params (e : Output) (s : State) : (emit e s).params = s.params := rfl

@[simp] theorem emit_resets (e : Output) (s : State) : (emit e s).resets = s.resets := rfl

@[simp] theorem emit_inputs (e : Output) (s : State) : (emit e s).inputs = s.inputs := rfl

@[simp] theorem emit_outputs (e : Output) (s : State) : (emit e s).outputs = s.outputs ++ [e] := rfl

/-! ## setPc -/

@[simp] theorem setPc_mem (t : Nat) (v : Addr) (s : State) : (setPc t v s).mem = s.mem := rfl

@[simp] theorem setPc_threadFree (t : Nat) (v : Addr) (s : State) : (setPc t v s).threadFree = s.threadFree := rfl

@[simp] theorem setPc_bins (t : Nat) (v : Addr) (s : State) : (setPc t v s).bins = s.bins := rfl

@[simp] theorem setPc_binFree (t : Nat) (v : Addr) (s : State) : (setPc t v s).binFree = s.binFree := rfl

@[simp] theorem setPc_actStack (t : Nat) (v : Addr) (s : State) : (setPc t v s).actStack = s.actStack := rfl

@[simp] theorem setPc_syncWait (t : Nat) (v : Addr) (s : State) : (setPc t v s).syncWait = s.syncWait := rfl

@[simp] theorem setPc_imageValid (t : Nat) (v : Addr) (s : State) : (setPc t v s).imageValid = s.imageValid := rfl

@[simp] theorem setPc_progStart (t : Nat) (v : Addr) (s : State) : (setPc t v s).progStart = s.progStart := rfl

@[simp] theorem setPc_externB (t : Nat) (v : Addr) (s : State) : (setPc t v s).externB = s.externB := rfl

@[simp] theorem setPc_linkError (t : Nat) (v : Addr) (s : State) : (setPc t v s).linkError = s.linkError := rfl

@[simp] theorem setPc_cbValid (t : Nat) (v : Addr) (s : State) : (setPc t v s).cbValid = s.cbValid := rfl

@[simp] theorem setPc_cbObj (t : Nat) (v : Addr) (s : State) : (setPc t v s).cbObj = s.cbObj := rfl

@[simp] theorem setPc_cbMethod (t : Nat) (v : Addr) (s : State) : (setPc t v s).cbMethod = s.cbMethod := rfl

@[simp] theorem setPc_confirmedReceived (t : Nat) (v : Addr) (s : State) : (setPc t v s).confirmedReceived = s.confirmedReceived := rfl

@[simp] theorem setPc_totalLen (t : Nat) (v : Addr) (s : State) : (setPc t v s).totalLen = s.totalLen := rfl

@[simp] theorem setPc_escPending (t : Nat) (v : Addr) (s : State) : (setPc t v s).escPending = s.escPending := rfl

@[simp] theorem setPc_fstate (t : Nat) (v : Addr) (s : State) : (setPc t v s).fstate = s.fstate := rfl

@[simp] theorem setPc_fbuf (t : Nat) (v : Addr) (s : State) : (setPc t v s).fbuf = s.fbuf := rfl

@[simp] theorem setPc_flen (t : Nat) (v : Addr) (s : State) : (setPc t v s).flen = s.flen := rfl

@[simp] theorem setPc_fovf (t : Nat) (v : Addr) (s : State) : (setPc t v s).fovf = s.fovf := rfl

@[simp] theorem setPc_ring (t : Nat) (v : Addr) (s : State) : (setPc t v s).ring = s.ring := rfl

@[simp] theorem setPc_txHead (t : Nat) (v : Addr) (s : State) : (setPc t v s).txHead = s.txHead := rfl

@[simp] theorem setPc_txCount (t : Nat) (v : Addr) (s : State) : (setPc t v s).txCount = s.txCount := rfl

@[simp] theorem setPc_txActive (t : Nat) (v : Addr) (s : State) : (setPc t v s).txActive = s.txActive := rfl

@[simp] theorem setPc_led (t : Nat) (v : Addr) (s : State) : (setPc t v s).led = s.led := rfl

@[simp] theorem setPc_fault (t : Nat) (v : Addr) (s : State) : (setPc t v s).fault = s.fault := rfl

@[simp] theorem setPc_params (t : Nat) (v : Addr) (s : State) : (setPc t v s).params = s.params := rfl

@[simp] theorem setPc_resets (t : Nat) (v : Addr) (s : State) : (setPc t v s).resets = s.resets := rfl

@[simp] theorem setPc_inputs (t : Nat) (v : Addr) (s : State) : (setPc t v s).inputs = s.inputs := rfl

@[simp] theorem setPc_outputs (t : Nat) (v : Addr) (s : State) : (setPc t v s).outputs = s.outputs := rfl

@[simp] theorem setPc_threads (t : Nat) (v : Addr) (s : State) :
    (setPc t v s).threads = s.threads.set t { s.thread t with pc := v } := rfl

/-! ## setSp -/

@[simp] theorem setSp_mem (t : Nat) (v : Addr) (s : State) : (setSp t v s).mem = s.mem := rfl

@[simp] theorem setSp_threadFree (t : Nat) (v : Addr) (s : State) : (setSp t v s).threadFree = s.threadFree := rfl

@[simp] theorem setSp_bins (t : Nat) (v : Addr) (s : State) : (setSp t v s).bins = s.bins := rfl

@[simp] theorem setSp_binFree (t : Nat) (v : Addr) (s : State) : (setSp t v s).binFree = s.binFree := rfl

@[simp] theorem setSp_actStack (t : Nat) (v : Addr) (s : State) : (setSp t v s).actStack = s.actStack := rfl

@[simp] theorem setSp_syncWait (t : Nat) (v : Addr) (s : State) : (setSp t v s).syncWait = s.syncWait := rfl

@[simp] theorem setSp_imageValid (t : Nat) (v : Addr) (s : State) : (setSp t v s).imageValid = s.imageValid := rfl

@[simp] theorem setSp_progStart (t : Nat) (v : Addr) (s : State) : (setSp t v s).progStart = s.progStart := rfl

@[simp] theorem setSp_externB (t : Nat) (v : Addr) (s : State) : (setSp t v s).externB = s.externB := rfl

@[simp] theorem setSp_linkError (t : Nat) (v : Addr) (s : State) : (setSp t v s).linkError = s.linkError := rfl

@[simp] theorem setSp_cbValid (t : Nat) (v : Addr) (s : State) : (setSp t v s).cbValid = s.cbValid := rfl

@[simp] theorem setSp_cbObj (t : Nat) (v : Addr) (s : State) : (setSp t v s).cbObj = s.cbObj := rfl

@[simp] theorem setSp_cbMethod (t : Nat) (v : Addr) (s : State) : (setSp t v s).cbMethod = s.cbMethod := rfl

@[simp] theorem setSp_confirmedReceived (t : Nat) (v : Addr) (s : State) : (setSp t v s).confirmedReceived = s.confirmedReceived := rfl

@[simp] theorem setSp_totalLen (t : Nat) (v : Addr) (s : State) : (setSp t v s).totalLen = s.totalLen := rfl

@[simp] theorem setSp_escPending (t : Nat) (v : Addr) (s : State) : (setSp t v s).escPending = s.escPending := rfl

@[simp] theorem setSp_fstate (t : Nat) (v : Addr) (s : State) : (setSp t v s).fstate = s.fstate := rfl

@[simp] theorem setSp_fbuf (t : Nat) (v : Addr) (s : State) : (setSp t v s).fbuf = s.fbuf := rfl

@[simp] theorem setSp_flen (t : Nat) (v : Addr) (s : State) : (setSp t v s).flen = s.flen := rfl

@[simp] theorem setSp_fovf (t : Nat) (v : Addr) (s : State) : (setSp t v s).fovf = s.fovf := rfl

@[simp] theorem setSp_ring (t : Nat) (v : Addr) (s : State) : (setSp t v s).ring = s.ring := rfl

@[simp] theorem setSp_txHead (t : Nat) (v : Addr) (s : State) : (setSp t v s).txHead = s.txHead := rfl

@[simp] theorem setSp_txCount (t : Nat) (v : Addr) (s : State) : (setSp t v s).txCount = s.txCount := rfl

@[simp] theorem setSp_txActive (t : Nat) (v : Addr) (s : State) : (setSp t v s).txActive = s.txActive := rfl

@[simp] theorem setSp_led (t : Nat) (v : Addr) (s : State) : (setSp t v s).led = s.led := rfl

@[simp] theorem setSp_fault (t : Nat) (v : Addr) (s : State) : (setSp t v s).fault = s.fault := rfl

@[simp] theorem setSp_params (t : Nat) (v : Addr) (s : State) : (setSp t v s).params = s.params := rfl

@[simp] theorem setSp_resets (t : Nat) (v : Addr) (s : State) : (setSp t v s).resets = s.resets := rfl

@[simp] theorem setSp_inputs (t : Nat) (v : Addr) (s : State) : (setSp t v s).inputs = s.inputs := rfl

@[simp] theorem setSp_outputs (t : Nat) (v : Addr) (s : State) : (setSp t v s).outputs = s.outputs := rfl

@[simp] theorem setSp_threads (t : Nat) (v : Addr) (s : State) :
    (setSp t v s).threads = s.threads.set t { s.thread t with sp := v } := rfl

/-! ## setFp -/

@[simp] theorem setFp_mem (t : Nat) (v : Addr) (s : State) : (setFp t v s).mem = s.mem := rfl

@[simp] theorem setFp_threadFree (t : Nat) (v : Addr) (s : State) : (setFp t v s).threadFree = s.threadFree := rfl

@[simp] theorem setFp_bins (t : Nat) (v : Addr) (s : State) : (setFp t v s).bins = s.bins := rfl

@[simp] theorem setFp_binFree (t : Nat) (v : Addr) (s : State) : (setFp t v s).binFree = s.binFree := rfl

@[simp] theorem setFp_actStack (t : Nat) (v : Addr) (s : State) : (setFp t v s).actStack = s.actStack := rfl

@[simp] theorem setFp_syncWait (t : Nat) (v : Addr) (s : State) : (setFp t v s).syncWait = s.syncWait := rfl

@[simp] theorem setFp_imageValid (t : Nat) (v : Addr) (s : State) : (setFp t v s).imageValid = s.imageValid := rfl

@[simp] theorem setFp_progStart (t : Nat) (v : Addr) (s : State) : (setFp t v s).progStart = s.progStart := rfl

@[simp] theorem setFp_externB (t : Nat) (v : Addr) (s : State) : (setFp t v s).externB = s.externB := rfl

@[simp] theorem setFp_linkError (t : Nat) (v : Addr) (s : State) : (setFp t v s).linkError = s.linkError := rfl

@[simp] theorem setFp_cbValid (t : Nat) (v : Addr) (s : State) : (setFp t v s).cbValid = s.cbValid := rfl

@[simp] theorem setFp_cbObj (t : Nat) (v : Addr) (s : State) : (setFp t v s).cbObj = s.cbObj := rfl

@[simp] theorem setFp_cbMethod (t : Nat) (v : Addr) (s : State) : (setFp t v s).cbMethod = s.cbMethod := rfl

@[simp] theorem setFp_confirmedReceived (t : Nat) (v : Addr) (s : State) : (setFp t v s).confirmedReceived = s.confirmedReceived := rfl

@[simp] theorem setFp_totalLen (t : Nat) (v : Addr) (s : State) : (setFp t v s).totalLen = s.totalLen := rfl

@[simp] theorem setFp_escPending (t : Nat) (v : Addr) (s : State) : (setFp t v s).escPending = s.escPending := rfl

@[simp] theorem setFp_fstate (t : Nat) (v : Addr) (s : State) : (setFp t v s).fstate = s.fstate := rfl

@[simp] theorem setFp_fbuf (t : Nat) (v : Addr) (s : State) : (setFp t v s).fbuf = s.fbuf := rfl

@[simp] theorem setFp_flen (t : Nat) (v : Addr) (s : State) : (setFp t v s).flen = s.flen := rfl

@[simp] theorem setFp_fovf (t : Nat) (v : Addr) (s : State) : (setFp t v s).fovf = s.fovf := rfl

@[simp] theorem setFp_ring (t : Nat) (v : Addr) (s : State) : (setFp t v s).ring = s.ring := rfl

@[simp] theorem setFp_txHead (t : Nat) (v : Addr) (s : State) : (setFp t v s).txHead = s.txHead := rfl

@[simp] theorem setFp_txCount (t : Nat) (v : Addr) (s : State) : (setFp t v s).txCount = s.txCount := rfl

@[simp] theorem setFp_txActive (t : Nat) (v : Addr) (s : State) : (setFp t v s).txActive = s.txActive := rfl

@[simp] theorem setFp_led (t : Nat) (v : Addr) (s : State) : (setFp t v s).led = s.led := rfl

@[simp] theorem setFp_fault (t : Nat) (v : Addr) (s : State) : (setFp t v s).fault = s.fault := rfl

@[simp] theorem setFp_params (t : Nat) (v : Addr) (s : State) : (setFp t v s).params = s.params := rfl

@[simp] theorem setFp_resets (t : Nat) (v : Addr) (s : State) : (setFp t v s).resets = s.resets := rfl

@[simp] theorem setFp_inputs (t : Nat) (v : Addr) (s : State) : (setFp t v s).inputs = s.inputs := rfl

@[simp] theorem setFp_outputs (t : Nat) (v : Addr) (s : State) : (setFp t v s).outputs = s.outputs := rfl

@[simp] theorem setFp_threads (t : Nat) (v : Addr) (s : State) :
    (setFp t v s).threads = s.threads.set t { s.thread t with fp := v } := rfl

/-! ## advance -/

@[simp] theorem advance_mem (t len : Nat) (s : State) : (advance t len s).mem = s.mem := rfl

@[simp] theorem advance_threadFree (t len : Nat) (s : State) : (advance t len s).threadFree = s.threadFree := rfl

@[simp] theorem advance_bins (t len : Nat) (s : State) : (advance t len s).bins = s.bins := rfl

@[simp] theorem advance_binFree (t len : Nat) (s : State) : (advance t len s).binFree = s.binFree := rfl

@[simp] theorem advance_actStack (t len : Nat) (s : State) : (advance t len s).actStack = s.actStack := rfl

@[simp] theorem advance_syncWait (t len : Nat) (s : State) : (advance t len s).syncWait = s.syncWait := rfl

@[simp] theorem advance_imageValid (t len : Nat) (s : State) : (advance t len s).imageValid = s.imageValid := rfl

@[simp] theorem advance_progStart (t len : Nat) (s : State) : (advance t len s).progStart = s.progStart := rfl

@[simp] theorem advance_externB (t len : Nat) (s : State) : (advance t len s).externB = s.externB := rfl

@[simp] theorem advance_linkError (t len : Nat) (s : State) : (advance t len s).linkError = s.linkError := rfl

@[simp] theorem advance_cbValid (t len : Nat) (s : State) : (advance t len s).cbValid = s.cbValid := rfl

@[simp] theorem advance_cbObj (t len : Nat) (s : State) : (advance t len s).cbObj = s.cbObj := rfl

@[simp] theorem advance_cbMethod (t len : Nat) (s : State) : (advance t len s).cbMethod = s.cbMethod := rfl

@[simp] theorem advance_confirmedReceived (t len : Nat) (s : State) : (advance t len s).confirmedReceived = s.confirmedReceived := rfl

@[simp] theorem advance_totalLen (t len : Nat) (s : State) : (advance t len s).totalLen = s.totalLen := rfl

@[simp] theorem advance_escPending (t len : Nat) (s : State) : (advance t len s).escPending = s.escPending := rfl

@[simp] theorem advance_fstate (t len : Nat) (s : State) : (advance t len s).fstate = s.fstate := rfl

@[simp] theorem advance_fbuf (t len : Nat) (s : State) : (advance t len s).fbuf = s.fbuf := rfl

@[simp] theorem advance_flen (t len : Nat) (s : State) : (advance t len s).flen = s.flen := rfl

@[simp] theorem advance_fovf (t len : Nat) (s : State) : (advance t len s).fovf = s.fovf := rfl

@[simp] theorem advance_ring (t len : Nat) (s : State) : (advance t len s).ring = s.ring := rfl

@[simp] theorem advance_txHead (t len : Nat) (s : State) : (advance t len s).txHead = s.txHead := rfl

@[simp] theorem advance_txCount (t len : Nat) (s : State) : (advance t len s).txCount = s.txCount := rfl

@[simp] theorem advance_txActive (t len : Nat) (s : State) : (advance t len s).txActive = s.txActive := rfl

@[simp] theorem advance_led (t len : Nat) (s : State) : (advance t len s).led = s.led := rfl

@[simp] theorem advance_fault (t len : Nat) (s : State) : (advance t len s).fault = s.fault := rfl

@[simp] theorem advance_params (t len : Nat) (s : State) : (advance t len s).params = s.params := rfl

@[simp] theorem advance_resets (t len : Nat) (s : State) : (advance t len s).resets = s.resets := rfl

@[simp] theorem advance_inputs (t len : Nat) (s : State) : (advance t len s).inputs = s.inputs := rfl

@[simp] theorem advance_outputs (t len : Nat) (s : State) : (advance t len s).outputs = s.outputs := rfl

@[simp] theorem advance_threads (t len : Nat) (s : State) : (advance t len s).threads =
    s.threads.set t { s.thread t with pc := (s.thread t).pc + BitVec.ofNat 16 len } := rfl

/-! ## releaseThread -/

@[simp] theorem releaseThread_mem (t : Nat) (s : State) : (releaseThread t s).mem = s.mem := rfl

@[simp] theorem releaseThread_bins (t : Nat) (s : State) : (releaseThread t s).bins = s.bins := rfl

@[simp] theorem releaseThread_binFree (t : Nat) (s : State) : (releaseThread t s).binFree = s.binFree := rfl

@[simp] theorem releaseThread_actStack (t : Nat) (s : State) : (releaseThread t s).actStack = s.actStack := rfl

@[simp] theorem releaseThread_syncWait (t : Nat) (s : State) : (releaseThread t s).syncWait = s.syncWait := rfl

@[simp] theorem releaseThread_imageValid (t : Nat) (s : State) : (releaseThread t s).imageValid = s.imageValid := rfl

@[simp] theorem releaseThread_progStart (t : Nat) (s : State) : (releaseThread t s).progStart = s.progStart := rfl

@[simp] theorem releaseThread_externB (t : Nat) (s : State) : (releaseThread t s).externB = s.externB := rfl

@[simp] theorem releaseThread_linkError (t : Nat) (s : State) : (releaseThread t s).linkError = s.linkError := rfl

@[simp] theorem releaseThread_cbValid (t : Nat) (s : State) : (releaseThread t s).cbValid = s.cbValid := rfl

@[simp] theorem releaseThread_cbObj (t : Nat) (s : State) : (releaseThread t s).cbObj = s.cbObj := rfl

@[simp] theorem releaseThread_cbMethod (t : Nat) (s : State) : (releaseThread t s).cbMethod = s.cbMethod := rfl

@[simp] theorem releaseThread_confirmedReceived (t : Nat) (s : State) : (releaseThread t s).confirmedReceived = s.confirmedReceived := rfl

@[simp] theorem releaseThread_totalLen (t : Nat) (s : State) : (releaseThread t s).totalLen = s.totalLen := rfl

@[simp] theorem releaseThread_escPending (t : Nat) (s : State) : (releaseThread t s).escPending = s.escPending := rfl

@[simp] theorem releaseThread_fstate (t : Nat) (s : State) : (releaseThread t s).fstate = s.fstate := rfl

@[simp] theorem releaseThread_fbuf (t : Nat) (s : State) : (releaseThread t s).fbuf = s.fbuf := rfl

@[simp] theorem releaseThread_flen (t : Nat) (s : State) : (releaseThread t s).flen = s.flen := rfl

@[simp] theorem releaseThread_fovf (t : Nat) (s : State) : (releaseThread t s).fovf = s.fovf := rfl

@[simp] theorem releaseThread_ring (t : Nat) (s : State) : (releaseThread t s).ring = s.ring := rfl

@[simp] theorem releaseThread_txHead (t : Nat) (s : State) : (releaseThread t s).txHead = s.txHead := rfl

@[simp] theorem releaseThread_txCount (t : Nat) (s : State) : (releaseThread t s).txCount = s.txCount := rfl

@[simp] theorem releaseThread_txActive (t : Nat) (s : State) : (releaseThread t s).txActive = s.txActive := rfl

@[simp] theorem releaseThread_led (t : Nat) (s : State) : (releaseThread t s).led = s.led := rfl

@[simp] theorem releaseThread_fault (t : Nat) (s : State) : (releaseThread t s).fault = s.fault := rfl

@[simp] theorem releaseThread_params (t : Nat) (s : State) : (releaseThread t s).params = s.params := rfl

@[simp] theorem releaseThread_resets (t : Nat) (s : State) : (releaseThread t s).resets = s.resets := rfl

@[simp] theorem releaseThread_inputs (t : Nat) (s : State) : (releaseThread t s).inputs = s.inputs := rfl

@[simp] theorem releaseThread_outputs (t : Nat) (s : State) : (releaseThread t s).outputs = s.outputs := rfl

@[simp] theorem releaseThread_threads (t : Nat) (s : State) :
    (releaseThread t s).threads = s.threads.set t { s.thread t with free := true } := rfl

@[simp] theorem releaseThread_threadFree (t : Nat) (s : State) :
    (releaseThread t s).threadFree = t :: s.threadFree := rfl

/-! ## releaseBin -/

@[simp] theorem releaseBin_mem (b : Nat) (s : State) : (releaseBin b s).mem = s.mem := rfl

@[simp] theorem releaseBin_threads (b : Nat) (s : State) : (releaseBin b s).threads = s.threads := rfl

@[simp] theorem releaseBin_threadFree (b : Nat) (s : State) : (releaseBin b s).threadFree = s.threadFree := rfl

@[simp] theorem releaseBin_actStack (b : Nat) (s : State) : (releaseBin b s).actStack = s.actStack := rfl

@[simp] theorem releaseBin_syncWait (b : Nat) (s : State) : (releaseBin b s).syncWait = s.syncWait := rfl

@[simp] theorem releaseBin_imageValid (b : Nat) (s : State) : (releaseBin b s).imageValid = s.imageValid := rfl

@[simp] theorem releaseBin_progStart (b : Nat) (s : State) : (releaseBin b s).progStart = s.progStart := rfl

@[simp] theorem releaseBin_externB (b : Nat) (s : State) : (releaseBin b s).externB = s.externB := rfl

@[simp] theorem releaseBin_linkError (b : Nat) (s : State) : (releaseBin b s).linkError = s.linkError := rfl

@[simp] theorem releaseBin_cbValid (b : Nat) (s : State) : (releaseBin b s).cbValid = s.cbValid := rfl

@[simp] theorem releaseBin_cbObj (b : Nat) (s : State) : (releaseBin b s).cbObj = s.cbObj := rfl

@[simp] theorem releaseBin_cbMethod (b : Nat) (s : State) : (releaseBin b s).cbMethod = s.cbMethod := rfl

@[simp] theorem releaseBin_confirmedReceived (b : Nat) (s : State) : (releaseBin b s).confirmedReceived = s.confirmedReceived := rfl

@[simp] theorem releaseBin_totalLen (b : Nat) (s : State) : (releaseBin b s).totalLen = s.totalLen := rfl

@[simp] theorem releaseBin_escPending (b : Nat) (s : State) : (releaseBin b s).escPending = s.escPending := rfl

@[simp] theorem releaseBin_fstate (b : Nat) (s : State) : (releaseBin b s).fstate = s.fstate := rfl

@[simp] theorem releaseBin_fbuf (b : Nat) (s : State) : (releaseBin b s).fbuf = s.fbuf := rfl

@[simp] theorem releaseBin_flen (b : Nat) (s : State) : (releaseBin b s).flen = s.flen := rfl

@[simp] theorem releaseBin_fovf (b : Nat) (s : State) : (releaseBin b s).fovf = s.fovf := rfl

@[simp] theorem releaseBin_ring (b : Nat) (s : State) : (releaseBin b s).ring = s.ring := rfl

@[simp] theorem releaseBin_txHead (b : Nat) (s : State) : (releaseBin b s).txHead = s.txHead := rfl

@[simp] theorem releaseBin_txCount (b : Nat) (s : State) : (releaseBin b s).txCount = s.txCount := rfl

@[simp] theorem releaseBin_txActive (b : Nat) (s : State) : (releaseBin b s).txActive = s.txActive := rfl

@[simp] theorem releaseBin_led (b : Nat) (s : State) : (releaseBin b s).led = s.led := rfl

@[simp] theorem releaseBin_fault (b : Nat) (s : State) : (releaseBin b s).fault = s.fault := rfl

@[simp] theorem releaseBin_params (b : Nat) (s : State) : (releaseBin b s).params = s.params := rfl

@[simp] theorem releaseBin_resets (b : Nat) (s : State) : (releaseBin b s).resets = s.resets := rfl

@[simp] theorem releaseBin_inputs (b : Nat) (s : State) : (releaseBin b s).inputs = s.inputs := rfl

@[simp] theorem releaseBin_outputs (b : Nat) (s : State) : (releaseBin b s).outputs = s.outputs := rfl

@[simp] theorem releaseBin_bins (b : Nat) (s : State) :
    (releaseBin b s).bins = s.bins.set b { s.bin b with free := true } := rfl

@[simp] theorem releaseBin_binFree (b : Nat) (s : State) : (releaseBin b s).binFree = b :: s.binFree := rfl

/-! ## raiseFault -/

@[simp] theorem raiseFault_mem (f : FaultCode) (s : State) : (raiseFault f s).mem = s.mem := rfl

@[simp] theorem raiseFault_threads (f : FaultCode) (s : State) : (raiseFault f s).threads = s.threads := rfl

@[simp] theorem raiseFault_threadFree (f : FaultCode) (s : State) : (raiseFault f s).threadFree = s.threadFree := rfl

@[simp] theorem raiseFault_bins (f : FaultCode) (s : State) : (raiseFault f s).bins = s.bins := rfl

@[simp] theorem raiseFault_binFree (f : FaultCode) (s : State) : (raiseFault f s).binFree = s.binFree := rfl

@[simp] theorem raiseFault_actStack (f : FaultCode) (s : State) : (raiseFault f s).actStack = s.actStack := rfl

@[simp] theorem raiseFault_syncWait (f : FaultCode) (s : State) : (raiseFault f s).syncWait = s.syncWait := rfl

@[simp] theorem raiseFault_imageValid (f : FaultCode) (s : State) : (raiseFault f s).imageValid = s.imageValid := rfl

@[simp] theorem raiseFault_progStart (f : FaultCode) (s : State) : (raiseFault f s).progStart = s.progStart := rfl

@[simp] theorem raiseFault_externB (f : FaultCode) (s : State) : (raiseFault f s).externB = s.externB := rfl

@[simp] theorem raiseFault_linkError (f : FaultCode) (s : State) : (raiseFault f s).linkError = s.linkError := rfl

@[simp] theorem raiseFault_cbValid (f : FaultCode) (s : State) : (raiseFault f s).cbValid = s.cbValid := rfl

@[simp] theorem raiseFault_cbObj (f : FaultCode) (s : State) : (raiseFault f s).cbObj = s.cbObj := rfl

@[simp] theorem raiseFault_cbMethod (f : FaultCode) (s : State) : (raiseFault f s).cbMethod = s.cbMethod := rfl

@[simp] theorem raiseFault_confirmedReceived (f : FaultCode) (s : State) : (raiseFault f s).confirmedReceived = s.confirmedReceived := rfl

@[simp] theorem raiseFault_totalLen (f : FaultCode) (s : State) : (raiseFault f s).totalLen = s.totalLen := rfl

@[simp] theorem raiseFault_escPending (f : FaultCode) (s : State) : (raiseFault f s).escPending = s.escPending := rfl

@[simp] theorem raiseFault_fstate (f : FaultCode) (s : State) : (raiseFault f s).fstate = s.fstate := rfl

@[simp] theorem raiseFault_fbuf (f : FaultCode) (s : State) : (raiseFault f s).fbuf = s.fbuf := rfl

@[simp] theorem raiseFault_flen (f : FaultCode) (s : State) : (raiseFault f s).flen = s.flen := rfl

@[simp] theorem raiseFault_fovf (f : FaultCode) (s : State) : (raiseFault f s).fovf = s.fovf := rfl

@[simp] theorem raiseFault_ring (f : FaultCode) (s : State) : (raiseFault f s).ring = s.ring := rfl

@[simp] theorem raiseFault_txHead (f : FaultCode) (s : State) : (raiseFault f s).txHead = s.txHead := rfl

@[simp] theorem raiseFault_txCount (f : FaultCode) (s : State) : (raiseFault f s).txCount = s.txCount := rfl

@[simp] theorem raiseFault_txActive (f : FaultCode) (s : State) : (raiseFault f s).txActive = s.txActive := rfl

@[simp] theorem raiseFault_led (f : FaultCode) (s : State) : (raiseFault f s).led = s.led := rfl

@[simp] theorem raiseFault_params (f : FaultCode) (s : State) : (raiseFault f s).params = s.params := rfl

@[simp] theorem raiseFault_resets (f : FaultCode) (s : State) : (raiseFault f s).resets = s.resets := rfl

@[simp] theorem raiseFault_inputs (f : FaultCode) (s : State) : (raiseFault f s).inputs = s.inputs := rfl

@[simp] theorem raiseFault_outputs (f : FaultCode) (s : State) :
    (raiseFault f s).outputs = s.outputs ++ [.faultOut f] := rfl

@[simp] theorem raiseFault_valid (f : FaultCode) (s : State) : (raiseFault f s).fault.valid = true := rfl

@[simp] theorem raiseFault_code (f : FaultCode) (s : State) : (raiseFault f s).fault.code = f := rfl

end Sys2Proof.Machine
end

