-- ==== Sys2Proof/Laws/Ops.lean ====
section
/-! SUPPORT. What each shared operation does, said once: memory access, thread records, the stack, the pools, and
the settling of a step. -/

namespace Sys2Proof.Machine

/-! ## Chains of operations that may raise -/

/-- A chain succeeds exactly when both parts do. -/
theorem bind_eq_ok {ε α β : Type} {x : Except ε α} {f : α → Except ε β} {b : β} :
    (x >>= f) = .ok b ↔ ∃ a, x = .ok a ∧ f a = .ok b := by
  cases x with
  | error e => simp [bind, Except.bind]
  | ok a => simp [bind, Except.bind]

@[simp] theorem ok_bind {ε α β : Type} (a : α) (f : α → Except ε β) : (Except.ok a >>= f) = f a := rfl

@[simp] theorem error_bind {ε α β : Type} (e : ε) (f : α → Except ε β) :
    ((Except.error e : Except ε α) >>= f) = .error e := rfl

/-! ## Memory -/

theorem byteAt_congr (s s' : State) (a : Nat) (hr : s.resets = s'.resets) (hm : s.mem = s'.mem) :
    s.byteAt a = s'.byteAt a := by simp [State.byteAt, hr, hm]

theorem readBytes_congr (s s' : State) (a k : Nat) (hr : s.resets = s'.resets) (hm : s.mem = s'.mem) :
    s.readBytes a k = s'.readBytes a k := by simp [State.readBytes, hr, hm]

theorem valueAt_congr (s s' : State) (n a : Nat) (hr : s.resets = s'.resets) (hm : s.mem = s'.mem) :
    s.valueAt n a = s'.valueAt n a := by simp [State.valueAt, readBytes_congr s s' _ _ hr hm]

@[simp] theorem readBytes_length (s : State) (a k : Nat) : (s.readBytes a k).length = k :=
  Memory.bytes_length _ _ _ _ _

theorem readBytes_add (s : State) (a j k : Nat) :
    s.readBytes a (j + k) = s.readBytes a j ++ s.readBytes (a + j) k := Memory.bytes_add _ _ _ _ _ _

/-- A write leaves every byte outside it as it was (R73). -/
theorem byteAt_writeBytes_outside (s : State) (a : Nat) (bs : List Byte) (x : Nat)
    (h : x < a ∨ a + bs.length ≤ x) : (s.writeBytes a bs).byteAt x = s.byteAt x :=
  Memory.byteOr_congr _ _ _ _ _ (Memory.get?_putAll_outside _ _ _ _ h)

/-- A write is read back (R72, R73). -/
@[simp] theorem readBytes_writeBytes (s : State) (a : Nat) (bs : List Byte) :
    (s.writeBytes a bs).readBytes a bs.length = bs := Memory.bytes_putAll _ _ _ _ _

/-- Bytes outside a write read as before it. -/
theorem readBytes_writeBytes_outside (s : State) (a : Nat) (bs : List Byte) (x k : Nat)
    (h : x + k ≤ a ∨ a + bs.length ≤ x) : (s.writeBytes a bs).readBytes x k = s.readBytes x k :=
  Memory.bytes_congr _ _ _ _ _ _ (fun y h1 h2 => byteAt_writeBytes_outside s a bs y (by omega))

/-- The bytes of the value at an address are the bytes at that address (R74). -/
theorem leBytes_valueAt (s : State) (n a : Nat) (h : n % 8 = 0) :
    leBytes (n / 8) (s.valueAt n a).toNat = s.readBytes a (n / 8) := by
  have hlt := leNat_lt (s.readBytes a (n / 8))
  rw [readBytes_length] at hlt
  have h2 : (256 : Nat) ^ (n / 8) = 2 ^ n := by
    rw [show (256 : Nat) = 2 ^ 8 from rfl, ← Nat.pow_mul]
    congr 1
    omega
  rw [h2] at hlt
  have h3 : (s.valueAt n a).toNat = leNat (s.readBytes a (n / 8)) := by
    simp [State.valueAt, Nat.mod_eq_of_lt hlt]
  rw [h3]
  have h4 := leBytes_leNat (s.readBytes a (n / 8))
  rwa [readBytes_length] at h4

/-- A value written is the value read (R72, R73). -/
theorem valueAt_writeBytes {n : Nat} (s : State) (a : Nat) (v : BitVec n) (h : n % 8 = 0) :
    (s.writeBytes a (leBytes (n / 8) v.toNat)).valueAt n a = v := by
  have hl := leBytes_length (n / 8) v.toNat
  have h1 := readBytes_writeBytes s a (leBytes (n / 8) v.toNat)
  rw [hl] at h1
  have h2 : (256 : Nat) ^ (n / 8) = 2 ^ n := by
    rw [show (256 : Nat) = 2 ^ 8 from rfl, ← Nat.pow_mul]
    congr 1
    omega
  simp only [State.valueAt, h1, leNat_leBytes, h2]
  apply BitVec.eq_of_toNat_eq
  simp [Nat.mod_eq_of_lt v.isLt]

/-- `MemRead` succeeds exactly inside the arena, with the value there (R72). -/
theorem memRead_eq_ok {n : Nat} {a : Addr} {s : State} {v : BitVec n} :
    memRead n a s = .ok v ↔ a.toNat + n / 8 ≤ s.params.memCap ∧ v = s.valueAt n a.toNat := by
  unfold memRead
  split
  · simp; omega
  · simp [eq_comm]; omega

/-- `MemWrite` succeeds exactly inside the arena (R73). -/
theorem memWrite_eq_ok {n : Nat} {a : Addr} {v : BitVec n} {s s' : State} :
    memWrite a v s = .ok s' ↔
      a.toNat + n / 8 ≤ s.params.memCap ∧ s' = s.writeBytes a.toNat (leBytes (n / 8) v.toNat) := by
  unfold memWrite
  split
  · simp; omega
  · simp [eq_comm]; omega

/-- The only fault of `MemRead` is `MemOutOfBounds`, outside the arena (R72). -/
theorem memRead_eq_error {n : Nat} {a : Addr} {s : State} {f : FaultCode} :
    memRead n a s = .error f ↔ s.params.memCap < a.toNat + n / 8 ∧ f = .memOutOfBounds := by
  unfold memRead
  split <;> simp_all [eq_comm]

/-- The only fault of `MemWrite` is `MemOutOfBounds`, outside the arena (R73). -/
theorem memWrite_eq_error {n : Nat} {a : Addr} {v : BitVec n} {s : State} {f : FaultCode} :
    memWrite a v s = .error f ↔ s.params.memCap < a.toNat + n / 8 ∧ f = .memOutOfBounds := by
  unfold memWrite
  split <;> simp_all [eq_comm]

/-! ## Thread records -/

@[simp] theorem thread_writeBytes (s : State) (a : Nat) (bs : List Byte) (t : Nat) :
    (s.writeBytes a bs).thread t = s.thread t := rfl

@[simp] theorem thread_emit (e : Output) (s : State) (t : Nat) : (emit e s).thread t = s.thread t := rfl

@[simp] theorem thread_setBin (s : State) (b : Nat) (r : Bin) (t : Nat) :
    (s.setBin b r).thread t = s.thread t := rfl

theorem thread_setThread_same (s : State) (t : Nat) (r : Thread) (h : t < s.threads.length) :
    (s.setThread t r).thread t = r := by simp [State.thread, State.setThread, List.getD, h]

theorem thread_setThread_other (s : State) (t u : Nat) (r : Thread) (h : u ≠ t) :
    (s.setThread t r).thread u = s.thread u := by
  simp [State.thread, State.setThread, List.getD, Ne.symm h]

@[simp] theorem setThread_setThread (s : State) (t : Nat) (r r' : Thread) :
    (s.setThread t r).setThread t r' = s.setThread t r' := by simp [State.setThread]

/-- Writes to memory and to thread records do not meet. -/
theorem setThread_writeBytes (s : State) (t : Nat) (r : Thread) (a : Nat) (bs : List Byte) :
    (s.writeBytes a bs).setThread t r = (s.setThread t r).writeBytes a bs := rfl

@[simp] theorem byteAt_setThread (s : State) (t : Nat) (r : Thread) (a : Nat) :
    (s.setThread t r).byteAt a = s.byteAt a := rfl

@[simp] theorem readBytes_setThread (s : State) (t : Nat) (r : Thread) (a k : Nat) :
    (s.setThread t r).readBytes a k = s.readBytes a k := rfl

@[simp] theorem valueAt_setThread (s : State) (t : Nat) (r : Thread) (n a : Nat) :
    (s.setThread t r).valueAt n a = s.valueAt n a := rfl

/-- A current thread exists as a record. -/
theorem cur?_lt {s : State} {t : Nat} (h : s.cur? = some t) : t < s.threads.length := by
  unfold State.cur? at h
  split at h
  · simp at h
  · split at h
    · simp_all
    · simp at h

/-- The current thread is the thread of the top activation (R38). -/
theorem cur?_eq_some {s : State} {t : Nat} :
    s.cur? = some t ↔ ∃ a rest, s.actStack = a :: rest ∧ a.thread = t ∧ t < s.threads.length := by
  unfold State.cur?
  split
  · simp_all
  · rename_i a rest h
    simp only [h, List.cons.injEq, ite_eq_iff']
    constructor
    · intro h'
      by_cases hl : a.thread < s.threads.length
      · exact ⟨a, rest, ⟨rfl, rfl⟩, by simpa using h'.1 hl, by have := h'.1 hl; simp_all⟩
      · have := h'.2 hl
        simp at this
    · rintro ⟨a', rest', ⟨rfl, rfl⟩, rfl, hl⟩
      exact ⟨fun _ => rfl, fun h => absurd hl h⟩

/-! ## The stack -/

/-- `push_n(v)` succeeds exactly when there is room below `top` and inside the arena, and then writes the value at
`sp` and moves `sp` (R36). -/
theorem push_eq_ok {n : Nat} {t : Nat} {v : BitVec n} {s s' : State} :
    push t v s = .ok s' ↔
      (s.thread t).sp.toNat + n / 8 ≤ (s.thread t).top.toNat ∧
      (s.thread t).sp.toNat + n / 8 ≤ s.params.memCap ∧
      s' = setSp t ((s.thread t).sp + BitVec.ofNat 16 (n / 8))
        (s.writeBytes (s.thread t).sp.toNat (leBytes (n / 8) v.toNat)) := by
  unfold push
  split
  · simp; omega
  · rename_i h
    rw [bind_eq_ok]
    constructor
    · rintro ⟨s1, h1, h2⟩
      rw [memWrite_eq_ok] at h1
      obtain ⟨h1, rfl⟩ := h1
      simp only [Except.ok.injEq] at h2
      exact ⟨by omega, h1, h2.symm⟩
    · rintro ⟨_, h1, rfl⟩
      exact ⟨_, memWrite_eq_ok.2 ⟨h1, rfl⟩, rfl⟩

/-- `pop_n()` succeeds exactly when the bytes are on the stack and inside the arena, and then moves `sp` and
answers the value (R37). -/
theorem pop_eq_ok {n : Nat} {t : Nat} {s s' : State} {v : BitVec n} :
    pop n t s = .ok (v, s') ↔
      (s.thread t).bottom.toNat + n / 8 ≤ (s.thread t).sp.toNat ∧
      ((s.thread t).sp - BitVec.ofNat 16 (n / 8)).toNat + n / 8 ≤ s.params.memCap ∧
      v = s.valueAt n ((s.thread t).sp - BitVec.ofNat 16 (n / 8)).toNat ∧
      s' = setSp t ((s.thread t).sp - BitVec.ofNat 16 (n / 8)) s := by
  unfold pop
  split
  · simp; omega
  · rename_i h
    rw [bind_eq_ok]
    constructor
    · rintro ⟨w, h1, h2⟩
      rw [memRead_eq_ok] at h1
      obtain ⟨h1, rfl⟩ := h1
      simp only [Except.ok.injEq, Prod.mk.injEq] at h2
      exact ⟨by omega, h1, h2.1.symm, h2.2.symm⟩
    · rintro ⟨_, h1, rfl, rfl⟩
      exact ⟨_, memRead_eq_ok.2 ⟨h1, rfl⟩, rfl⟩

/-- With too little on the stack a pop raises `StackUnderflow` (R37). -/
theorem pop_underflow {n t : Nat} {s : State}
    (h : (s.thread t).sp.toNat < (s.thread t).bottom.toNat + n / 8) :
    pop n t s = .error .stackUnderflow := by simp [pop, h]

/-- With too little room a push raises `StackOverflow` (R36). -/
theorem push_overflow {n t : Nat} {v : BitVec n} {s : State}
    (h : (s.thread t).top.toNat < (s.thread t).sp.toNat + n / 8) :
    push t v s = .error .stackOverflow := by simp [push, h]

/-- The return frame (R35, R213): two pushes and `fp <- sp`. -/
theorem pushFrame_eq_ok {t : Nat} {ret savedFp : Word} {s s' : State} :
    pushFrame t ret savedFp s = .ok s' ↔
      ∃ s1 s2, push t ret s = .ok s1 ∧ push t savedFp s1 = .ok s2 ∧ s' = setFp t (s2.thread t).sp s2 := by
  unfold pushFrame
  simp only [bind_eq_ok, Except.ok.injEq]
  exact ⟨fun ⟨s1, h1, s2, h2, h3⟩ => ⟨s1, s2, h1, h2, h3.symm⟩, fun ⟨s1, s2, h1, h2, h3⟩ => ⟨s1, h1, s2, h2, h3.symm⟩⟩

/-! ## Pools -/

theorem allocThread_eq_ok {s s' : State} {t : Nat} :
    allocThread s = .ok (t, s') ↔ ∃ rest, s.threadFree = t :: rest ∧
      s' = { s.setThread t { s.thread t with free := false } with threadFree := rest } := by
  unfold allocThread
  split
  · simp_all
  · rename_i t' rest h
    simp only [Except.ok.injEq, Prod.mk.injEq, h, List.cons.injEq]
    constructor
    · rintro ⟨rfl, rfl⟩
      exact ⟨rest, ⟨rfl, rfl⟩, rfl⟩
    · rintro ⟨rest', ⟨rfl, rfl⟩, rfl⟩
      exact ⟨rfl, rfl⟩

theorem allocBin_eq_ok {s s' : State} {b : Nat} :
    allocBin s = .ok (b, s') ↔ ∃ rest, s.binFree = b :: rest ∧
      s' = { s.setBin b { s.bin b with free := false } with binFree := rest } := by
  unfold allocBin
  split
  · simp_all
  · rename_i b' rest h
    simp only [Except.ok.injEq, Prod.mk.injEq, h, List.cons.injEq]
    constructor
    · rintro ⟨rfl, rfl⟩
      exact ⟨rest, ⟨rfl, rfl⟩, rfl⟩
    · rintro ⟨rest', ⟨rfl, rfl⟩, rfl⟩
      exact ⟨rfl, rfl⟩

/-- Issuing an asynchronous call takes the first free bin, fills it and announces it (R243). -/
theorem issueAsync_eq_ok {data : List Byte} {m : Addr} {origin : Option Nat} {obj : Word} {bl dl : DWord}
    {s s' : State} :
    issueAsync data m origin obj bl dl s = .ok s' ↔ ∃ b s1, allocBin s = .ok (b, s1) ∧
      s' = emit (.schedAsync obj bl dl b) (s1.setBin b { s1.bin b with
        data := Memory.putAll (s1.bin b).data 0 data
        argSize := BitVec.ofNat 16 data.length
        method := m
        origin := origin }) := by
  unfold issueAsync
  rw [bind_eq_ok]
  constructor
  · rintro ⟨⟨b, s1⟩, h1, h2⟩
    exact ⟨b, s1, h1, by simpa [eq_comm] using h2⟩
  · rintro ⟨b, s1, h1, rfl⟩
    exact ⟨(b, s1), h1, rfl⟩

/-! ## The end of a step -/

@[simp] theorem settle_ok (s s' : State) : settle s (.ok s') = s' := rfl

@[simp] theorem settle_error (s : State) (f : FaultCode) : settle s (.error f) = raiseFault f s := rfl

/-- An instruction on a current thread answers a next state: its operation settled (R371). -/
theorem runInstr_of_cur {s : State} {t : Nat} (h : s.cur? = some t) (op : Nat → Except FaultCode State) :
    runInstr s op = .next (settle s (op t)) := by simp [runInstr, h]

/-- What an instruction can do: with a current thread, answer its operation settled; else stop. -/
theorem runInstr_eq_next {s s' : State} {op : Nat → Except FaultCode State} :
    runInstr s op = .next s' ↔ ∃ t, s.cur? = some t ∧ s' = settle s (op t) := by
  unfold runInstr
  cases h : s.cur? <;> simp [eq_comm]

/-- What a settled step can be: all of it, or only the fault (R371). -/
theorem settle_cases (s : State) (r : Except FaultCode State) :
    (∃ s', r = .ok s' ∧ settle s r = s') ∨ (∃ f, r = .error f ∧ settle s r = raiseFault f s) := by
  cases r with
  | ok s' => exact .inl ⟨s', rfl, rfl⟩
  | error f => exact .inr ⟨f, rfl, rfl⟩

end Sys2Proof.Machine
end

