-- ==== Sys2Proof/Laws/Stack.lean ====
section
/-! SUPPORT. The stack operations in a state whose stack lies in the memory image, bytes as slices, the operand
forms, the return frame, and how a meaning's next state gives a statement of `Safety.lean`. -/

namespace Sys2Proof.Machine

/-! ## Address arithmetic -/

theorem toNat_add_k {a : Addr} {k : Nat} (h : a.toNat + k < 65536) : (a + BitVec.ofNat 16 k).toNat = a.toNat + k := by
  rw [BitVec.toNat_add, BitVec.toNat_ofNat, Nat.mod_eq_of_lt (a := k) (by omega), Nat.mod_eq_of_lt h]

theorem toNat_sub_k {a : Addr} {k : Nat} (h : k ≤ a.toNat) : (a - BitVec.ofNat 16 k).toNat = a.toNat - k := by
  have := a.isLt
  rw [BitVec.toNat_sub_of_le]
  · rw [BitVec.toNat_ofNat, Nat.mod_eq_of_lt (by omega)]
  · rw [BitVec.le_def, BitVec.toNat_ofNat, Nat.mod_eq_of_lt (by omega)]
    omega

/-! ## Bytes -/

@[simp] theorem slices_length (k : Nat) {n : Nat} (v : BitVec n) : (slices k v).length = k := by simp [slices]

/-- The bytes a write places are the slices of R73. -/
theorem leBytes_eq_slices (k : Nat) {n : Nat} (v : BitVec n) : leBytes k v.toNat = slices k v := by
  have key : ∀ k x, leBytes k x = (List.range k).map (fun i => BitVec.ofNat 8 (x / 2 ^ (8 * i))) := by
    intro k
    induction k with
    | zero => intro x; rfl
    | succ k ih =>
      intro x
      rw [leBytes, ih, List.range_succ_eq_map]
      simp only [List.map_cons, List.map_map]
      congr 1
      · simp
      · apply List.map_congr_left
        intro i _
        simp only [Function.comp, Nat.succ_eq_add_one]
        congr 1
        rw [Nat.div_div_eq_div_mul]
        congr 1
        rw [show (256 : Nat) = 2 ^ 8 from rfl, ← Nat.pow_add]
        congr 1
        omega
  rw [key, slices]
  apply List.map_congr_left
  intro i _
  apply BitVec.eq_of_toNat_eq
  simp [BitVec.extractLsb'_toNat, Nat.shiftRight_eq_div_pow]

/-- The slices of a value in memory are the bytes there. -/
theorem slices_valueAt (s : State) (n a : Nat) (h : n % 8 = 0) :
    slices (n / 8) (s.valueAt n a) = s.readBytes a (n / 8) := by
  rw [← leBytes_eq_slices, leBytes_valueAt s n a h]

/-- A byte inside a write is the byte written. -/
theorem byteAt_writeBytes_inside (s : State) (a : Nat) (bs : List Byte) (x : Nat) (h : a ≤ x)
    (h2 : x < a + bs.length) : (s.writeBytes a bs).byteAt x = bs[x - a]?.getD 0 := by
  obtain ⟨i, rfl⟩ := Nat.exists_eq_add_of_le h
  have hi : i < bs.length := by omega
  simp [State.byteAt, State.writeBytes, Memory.byteOr, Memory.get?_putAll_inside s.mem a bs i hi, hi]

theorem Memory.putAll_append (m : Memory) (x : Nat) (a b : List Byte) :
    Memory.putAll m x (a ++ b) = Memory.putAll (Memory.putAll m x a) (x + a.length) b := by
  induction a generalizing m x with
  | nil => rfl
  | cons c a ih =>
    simp only [List.cons_append, Memory.putAll, ih, List.length_cons]
    congr 1
    omega

theorem writeBytes_append (s : State) (x : Nat) (a b : List Byte) :
    s.writeBytes x (a ++ b) = (s.writeBytes x a).writeBytes (x + a.length) b := by
  simp only [State.writeBytes, Memory.putAll_append]

/-- Inside the arena a read answers the value there (R72). -/
theorem memRead_ok {n : Nat} {a : Addr} {s : State} (h : a.toNat + n / 8 ≤ s.params.memCap) :
    memRead n a s = .ok (s.valueAt n a.toNat) := memRead_eq_ok.2 ⟨h, rfl⟩

/-- Inside the arena a write places the slices (R73). -/
theorem memWrite_ok {n : Nat} {a : Addr} {v : BitVec n} {s : State} (h : a.toNat + n / 8 ≤ s.params.memCap) :
    memWrite a v s = .ok (s.writeBytes a.toNat (slices (n / 8) v)) := by
  rw [memWrite_eq_ok, leBytes_eq_slices]
  exact ⟨h, rfl⟩

/-! ## Push and pop -/

theorem thread_setSp {s : State} {t : Nat} {v : Addr} (h : t < s.threads.length) :
    (setSp t v s).thread t = { s.thread t with sp := v } := thread_setThread_same _ _ _ h

/-- A pop with the bytes on the stack and the stack in the arena (R37). -/
theorem pop_ok {n t : Nat} {s : State} (h1 : (s.thread t).bottom.toNat + n / 8 ≤ (s.thread t).sp.toNat)
    (h2 : (s.thread t).sp.toNat ≤ s.params.memCap) :
    pop n t s = .ok (s.valueAt n ((s.thread t).sp.toNat - n / 8),
      setSp t ((s.thread t).sp - BitVec.ofNat 16 (n / 8)) s) := by
  have e := toNat_sub_k (a := (s.thread t).sp) (k := n / 8) (by omega)
  rw [pop_eq_ok]
  exact ⟨h1, by rw [e]; omega, by rw [e], rfl⟩

/-- A push with room below `top` and the stack in the arena (R36). -/
theorem push_ok {n t : Nat} {s : State} {v : BitVec n}
    (h1 : (s.thread t).sp.toNat + n / 8 ≤ (s.thread t).top.toNat)
    (h2 : (s.thread t).top.toNat ≤ s.params.memCap) :
    push t v s = .ok (setSp t ((s.thread t).sp + BitVec.ofNat 16 (n / 8))
      (s.writeBytes (s.thread t).sp.toNat (slices (n / 8) v))) := by
  rw [push_eq_ok, leBytes_eq_slices]
  exact ⟨h1, by omega, rfl⟩

/-- A whole return frame, with room for it (R35, R213). -/
theorem pushFrame_ok {s : State} {t : Nat} {ret fp : Word} (hl : t < s.threads.length)
    (h1 : (s.thread t).sp.toNat + 4 ≤ (s.thread t).top.toNat) (h3 : (s.thread t).top.toNat ≤ s.params.memCap) :
    pushFrame t ret fp s = .ok ((s.writeBytes (s.thread t).sp.toNat (slices 2 ret ++ slices 2 fp)).setThread t
      { s.thread t with sp := (s.thread t).sp + 4, fp := (s.thread t).sp + 4 }) := by
  have hsp := (s.thread t).top.isLt
  have e := toNat_add_k (a := (s.thread t).sp) (k := 2) (by omega)
  have e5 : (s.thread t).sp + BitVec.ofNat 16 2 + BitVec.ofNat 16 2 = (s.thread t).sp + 4 := by
    rw [BitVec.add_assoc]
    rfl
  rw [pushFrame, push_ok (by omega) h3]
  simp only [ok_bind, setSp]
  rw [push_ok
    (by rw [thread_setThread_same _ _ _ (by simpa using hl)]; simp only [e, thread_writeBytes]; omega)
    (by rw [thread_setThread_same _ _ _ (by simpa using hl)]; exact h3)]
  rw [thread_setThread_same _ _ _ (by simpa using hl)]
  simp (disch := simpa using hl) only [ok_bind, setSp, setFp, thread_setThread_same,
    ← setThread_writeBytes, setThread_setThread, thread_writeBytes]
  rw [writeBytes_append, slices_length]
  simp only [e5, e, Nat.reduceDiv]

/-- Read and push (R134 to R139): what it can do. -/
theorem pushFrom_eq_ok {n t : Nat} {ea : Addr} {len : Nat} {s s' : State} :
    pushFrom n t ea len s = .ok s' ↔
      ∃ v s1, memRead n ea s = .ok v ∧ push t v s = .ok s1 ∧ s' = advance t len s1 := by
  unfold pushFrom
  simp only [bind_eq_ok, Except.ok.injEq]
  exact ⟨fun ⟨v, h1, s1, h2, h3⟩ => ⟨v, s1, h1, h2, h3.symm⟩, fun ⟨v, s1, h1, h2, h3⟩ => ⟨v, h1, s1, h2, h3.symm⟩⟩

/-- Pop and store (R143 to R148): what it can do. -/
theorem popInto_eq_ok {n t : Nat} {ea : Addr} {len : Nat} {s s' : State} :
    popInto n t ea len s = .ok s' ↔
      ∃ v s1 s2, pop n t s = .ok (v, s1) ∧ memWrite ea v s1 = .ok s2 ∧ s' = advance t len s2 := by
  unfold popInto
  simp only [bind_eq_ok, Except.ok.injEq]
  constructor
  · rintro ⟨⟨v, s1⟩, h1, s2, h2, h3⟩
    exact ⟨v, s1, s2, h1, h2, h3.symm⟩
  · rintro ⟨v, s1, s2, h1, h2, h3⟩
    exact ⟨⟨v, s1⟩, h1, s2, h2, h3.symm⟩

/-- Leaving a function whose frame lies above the bottom of its stack (R214). -/
theorem unwind_ok {t : Nat} {n16 : Word} {newFp ret : Addr} {s : State} (hl : t < s.threads.length)
    (h4 : 4 ≤ (s.thread t).fp.toNat) :
    unwind t n16 newFp ret s =
      if (s.thread t).fp.toNat < (s.thread t).bottom.toNat + n16.toNat + 4 then .error .stackUnderflow
      else .ok (s.setThread t
        { s.thread t with pc := ret, fp := newFp, sp := (s.thread t).fp - 4 - n16 }) := by
  have e := toNat_sub_k (a := (s.thread t).fp) (k := 4) h4
  have h : ((s.thread t).fp - 4).toNat < (s.thread t).bottom.toNat + n16.toNat ↔
      (s.thread t).fp.toNat < (s.thread t).bottom.toNat + n16.toNat + 4 := by
    simp only [BitVec.ofNat_eq_ofNat]
    omega
  simp only [unwind, h]
  split
  · rfl
  · simp (disch := simpa using hl) [setPc, setFp, setSp, thread_setThread_same]

/-! ## From a meaning to a statement -/

/-- A fault taken with a current thread (R371). -/
theorem raiseFault_of_cur {s : State} {t : Nat} (h : s.cur? = some t) (f : FaultCode) :
    raiseFault f s = faulted s f (some t) (some (s.thread t).pc) := by simp [raiseFault, faulted, emit, h]

/-- A fault taken by an event (R371). -/
theorem raiseFault_eq_faultedNow (s : State) (f : FaultCode) : raiseFault f s = faultedNow s f := by
  simp [raiseFault, faulted, emit, faultedNow]

/-- A next state that writes bytes and one thread record is what `CompletesAs` says. -/
theorem completesAs_of {i : Instr} {s s0 : State} {t : Nat} {r : Thread} {lo : Nat} {bytes : List Byte}
    (h : exec i s = .next ((s0.writeBytes lo bytes).setThread t r))
    (h1 : s0.mem = s.mem) (h2 : s0.resets = s.resets) (h3 : s0.threads = s.threads) :
    CompletesAs i s s0 t r lo bytes := by
  refine ⟨_, h, rfl, ?_, ?_, ?_⟩
  · simp [State.setThread, State.writeBytes, h3]
  · rw [readBytes_setThread, readBytes_writeBytes]
  · intro a ha
    rw [byteAt_setThread, byteAt_writeBytes_outside _ _ _ _ ha]
    exact byteAt_congr _ _ _ h2 h1

theorem completes_of {i : Instr} {s : State} {t : Nat} {r : Thread} {lo : Nat} {bytes : List Byte}
    (h : exec i s = .next ((s.writeBytes lo bytes).setThread t r)) : Completes i s t r lo bytes :=
  completesAs_of h rfl rfl rfl

end Sys2Proof.Machine
end

