-- ==== Sys2Proof/Laws/Link.lean ====
section
/-! SUPPORT. The pools, the ring, the storages and the names behind the link: what their operations do, and that
they keep the canonical form. -/

namespace Sys2Proof.Machine

/-! ## The canonical form -/

/-- Writing into the ring keeps the canonical form and the capacity. -/
theorem Memory.wf_ringPut (cap : Nat) (x : List Byte) (m : Memory) (i : Nat) (hc : 0 < cap)
    (h1 : Memory.wf m = true) (h2 : Memory.within cap m = true) :
    Memory.wf (ringPut cap m i x) = true ∧ Memory.within cap (ringPut cap m i x) = true := by
  induction x generalizing m i with
  | nil => exact ⟨h1, h2⟩
  | cons b x ih =>
    exact ih _ _ (Memory.wf_put _ _ _ h1) (Memory.within_put _ _ _ _ (Nat.mod_lt _ hc) h2)

/-- The memory after reset has the canonical form. -/
theorem reset_mem_wf : Memory.wf State.reset.mem = true := rfl

/-- A program's writes keep the canonical form of the memory image. -/
theorem wf_writeBytes (s : State) (a : Nat) (bs : List Byte) (h : Memory.wf s.mem = true) :
    Memory.wf (s.writeBytes a bs).mem = true := Memory.wf_putAll _ _ _ h

/-! ## Bins -/

theorem bin_setBin_same (s : State) (b : Nat) (r : Bin) (h : b < s.bins.length) : (s.setBin b r).bin b = r := by
  simp [State.bin, State.setBin, List.getD, h]

theorem bin_setBin_other (s : State) (b u : Nat) (r : Bin) (h : u ≠ b) : (s.setBin b r).bin u = s.bin u := by
  simp [State.bin, State.setBin, List.getD, Ne.symm h]

/-- Issuing an asynchronous call with a bin free (R243). -/
theorem issueAsync_ok {data : List Byte} {m : Addr} {origin : Option Nat} {obj : Word} {bl dl : DWord} {s : State}
    {b : Nat} {rest : List Nat} (hb : s.binFree = b :: rest) (hlt : b < s.bins.length) :
    issueAsync data m origin obj bl dl s = .ok { s with
      bins := s.bins.set b
        { data := Memory.putAll (s.bin b).data 0 data
          argSize := BitVec.ofNat 16 data.length
          method := m
          origin := origin
          free := false }
      binFree := rest
      outputs := s.outputs ++ [.schedAsync obj bl dl b] } := by
  unfold issueAsync allocBin
  rw [hb]
  simp only [ok_bind]
  have h1 : ({ s.setBin b { s.bin b with free := false } with binFree := rest } : State).bin b =
    { s.bin b with free := false } := bin_setBin_same s b _ hlt
  rw [h1]
  simp [emit, State.setBin]

/-- Issuing an asynchronous call with no bin free (R243). -/
theorem issueAsync_exhausted {data : List Byte} {m : Addr} {origin : Option Nat} {obj : Word} {bl dl : DWord}
    {s : State} (hb : s.binFree = []) :
    issueAsync data m origin obj bl dl s = .error .binPoolExhausted := by
  unfold issueAsync allocBin
  rw [hb]
  rfl

/-! ## The ring -/

/-- Indices closer than the capacity name different places of the ring. -/
theorem mod_ne_of_lt {a b cap : Nat} (h : a < b) (h2 : b < a + cap) : a % cap ≠ b % cap := by
  intro he
  obtain ⟨k, hk⟩ := (Nat.modEq_iff_dvd' (Nat.le_of_lt h)).1 he
  rcases k with _ | k
  · omega
  · have : cap ≤ cap * (k + 1) := Nat.le_mul_of_pos_right _ (by omega)
    omega

theorem get?_ringPut_outside (cap : Nat) (x : List Byte) (m : Memory) (i a : Nat)
    (h : ∀ j < x.length, a ≠ (i + j) % cap) : Memory.get? (ringPut cap m i x) a = Memory.get? m a := by
  induction x generalizing m i with
  | nil => rfl
  | cons b x ih =>
    simp only [ringPut]
    rw [ih _ _ (fun j hj => by
      have := h (j + 1) (by simp; omega)
      rwa [show i + (j + 1) = i + 1 + j by omega] at this)]
    exact Memory.get?_put_other _ _ _ _ (by have := h 0 (by simp); simpa using this)

theorem get?_ringPut_inside (cap : Nat) (x : List Byte) (m : Memory) (i j : Nat) (hj : j < x.length)
    (hc : x.length ≤ cap) : Memory.get? (ringPut cap m i x) ((i + j) % cap) = some x[j] := by
  induction x generalizing m i j with
  | nil => simp at hj
  | cons b x ih =>
    simp only [List.length_cons] at hj hc
    simp only [ringPut]
    cases j with
    | zero =>
      rw [get?_ringPut_outside _ _ _ _ _ (fun j hj => mod_ne_of_lt (by omega) (by omega))]
      simp
    | succ j =>
      have := ih (Memory.put m (i % cap) b) (i + 1) j (by omega) (by omega)
      rw [show i + (j + 1) = i + 1 + j by omega]
      simpa using this

/-- Accepting a sequence changes the transmitter and the outputs only (R352). -/
theorem enqueue_frame {x : List Byte} {s q : State} (h : enqueue x s = some q) :
    q = { s with
      ring := q.ring
      txHead := q.txHead
      txCount := q.txCount
      txActive := q.txActive
      outputs := q.outputs } := by
  unfold enqueue at h
  split at h
  · cases h
  · simp only at h
    split at h <;> cases h <;> rfl

/-- The flip mask undoes itself (R260). -/
theorem flip_flip (b : Byte) : b ^^^ flipMask ^^^ flipMask = b := by simp [flipMask]

/-! ## The link -/

/-- The name at `t` is the bytes up to the first zero byte (R327). -/
theorem nameAt_eq_some {t k : Nat} {s : State} {bs : List Byte} :
    nameAt t k s = some bs ↔
      bs.length < k ∧ s.readBytes t bs.length = bs ∧ s.byteAt (t + bs.length) = 0 ∧ (0 : Byte) ∉ bs := by
  induction k generalizing t bs with
  | zero => simp [nameAt]
  | succ k ih =>
    simp only [nameAt]
    split
    · rename_i h0
      refine ⟨fun h => by cases h; simp [h0, State.readBytes, Memory.bytes], fun ⟨_, h2, _, h4⟩ => ?_⟩
      cases bs with
      | nil => rfl
      | cons b bs => exact absurd (((List.cons.inj h2).1.symm.trans h0) ▸ List.mem_cons_self) h4
    · rename_i h0
      rw [Option.map_eq_some_iff]
      constructor
      · rintro ⟨cs, h, rfl⟩
        obtain ⟨h1, h2, h3, h4⟩ := ih.1 h
        refine ⟨by simpa using h1, congrArg (s.byteAt t :: ·) h2, ?_, ?_⟩
        · rwa [List.length_cons, show t + (cs.length + 1) = t + 1 + cs.length by omega]
        · exact fun h => (List.mem_cons.1 h).elim (fun e => h0 e.symm) h4
      · rintro ⟨h1, h2, h3, h4⟩
        cases bs with
        | nil => exact absurd h3 h0
        | cons b bs =>
          obtain ⟨e1, e2⟩ := List.cons.inj h2
          refine ⟨bs, ih.2 ⟨by simpa using h1, e2, ?_, fun h => h4 (List.mem_cons_of_mem _ h)⟩, by rw [← e1]; rfl⟩
          rwa [show t + 1 + bs.length = t + (b :: bs).length by simp; omega]

/-- A CALL that resolves becomes the ECALL of the id of the name at its target, and nothing else changes (R327). -/
theorem resolve_eq_some {p t n : Nat} {s s' : State} :
    resolve p t n s = some s' ↔ ∃ name id, t < n ∧ nameAt t (n - t) s = some name ∧ nativeIdOf name = some id ∧
      s' = s.writeBytes p [0x63, BitVec.ofNat 8 id, 0x00] := by
  unfold resolve
  constructor
  · intro h
    split at h
    · cases h
    · split at h
      · cases h
      · rename_i name hn
        split at h
        · cases h
        · rename_i id hid
          exact ⟨name, id, by omega, hn, hid, (Option.some.inj h).symm⟩
  · rintro ⟨name, id, h, hn, hid, rfl⟩
    simp [show ¬ n ≤ t by omega, hn, hid]

/-! ## Events -/

/-- With no fault recorded an event other than `Rst` is settled (R371). -/
theorem inputEvent_of_alive {e : Input} {s : State} (h : s.Alive) :
    inputEvent e s = settle s (handleInput e s) := by simp [inputEvent, h]

theorem quiescent_iff (s : State) : s.quiescent = true ↔ Quiescent s := by
  simp [State.quiescent, Quiescent, and_assoc]

end Sys2Proof.Machine
end

