-- ==== Sys2Proof/Laws/PerInstr.lean ====
section
/-! SUPPORT. The family `EncodedLength`, one lemma per instruction: its encoding is an opcode byte, whose length
in the table `LEN` is that of the instruction's format, and its operand bytes (R100, R101, R103); and whatever its
operand, it is well formed (R111). -/

namespace Sys2Proof.Laws

theorem fitsEither_toNat (n : Nat) (v : BitVec n) : fitsEither n v.toNat = true := by
  have h := v.isLt
  have h1 : ((v.toNat : Nat) : Int) < ((2 ^ n : Nat) : Int) := Int.ofNat_lt.2 h
  have h2 : (0 : Int) ≤ 2 ^ (n - 1) := by positivity
  push_cast at h1
  simp only [fitsEither, decide_eq_true_eq]
  omega

theorem fitsSigned16_toInt (v : BitVec 16) : fitsSigned16 v.toInt = true := by
  have h1 := BitVec.toInt_lt (x := v)
  have h2 := BitVec.le_toInt v
  simp only [fitsSigned16, decide_eq_true_eq]
  omega

theorem fitsUnsigned16_toNat (v : BitVec 16) : fitsUnsigned16 v.toNat = true := by
  have h := v.isLt
  simp only [fitsUnsigned16, decide_eq_true_eq]
  omega

/-- The instruction's bytes agree with its format and with the length table, and it is well formed. -/
def EncodedLength.Statement (i : Instr) : Prop :=
  i.wellFormed = true ∧ ∃ op rest, encode i = op :: rest ∧ lenOf op = some i.format.length ∧
    rest.length + 1 = i.format.length

theorem EncodedLength.pushiB (v : BitVec 8) : EncodedLength.Statement (.pushiB v) :=
  ⟨fitsEither_toNat _ v, _, _, rfl, rfl, rfl⟩

theorem EncodedLength.pushiW (v : BitVec 16) : EncodedLength.Statement (.pushiW v) :=
  ⟨fitsEither_toNat _ v, _, _, rfl, rfl, by rw [leBytes_length]; rfl⟩

theorem EncodedLength.pushiD (v : BitVec 32) : EncodedLength.Statement (.pushiD v) :=
  ⟨fitsEither_toNat _ v, _, _, rfl, rfl, by rw [leBytes_length]; rfl⟩

theorem EncodedLength.pushfB (v : BitVec 16) : EncodedLength.Statement (.pushfB v) :=
  ⟨fitsSigned16_toInt v, _, _, rfl, rfl, by rw [leBytes_length]; rfl⟩

theorem EncodedLength.pushfW (v : BitVec 16) : EncodedLength.Statement (.pushfW v) :=
  ⟨fitsSigned16_toInt v, _, _, rfl, rfl, by rw [leBytes_length]; rfl⟩

theorem EncodedLength.pushfD (v : BitVec 16) : EncodedLength.Statement (.pushfD v) :=
  ⟨fitsSigned16_toInt v, _, _, rfl, rfl, by rw [leBytes_length]; rfl⟩

theorem EncodedLength.pushaB (v : BitVec 16) : EncodedLength.Statement (.pushaB v) :=
  ⟨fitsUnsigned16_toNat v, _, _, rfl, rfl, by rw [leBytes_length]; rfl⟩

theorem EncodedLength.pushaW (v : BitVec 16) : EncodedLength.Statement (.pushaW v) :=
  ⟨fitsUnsigned16_toNat v, _, _, rfl, rfl, by rw [leBytes_length]; rfl⟩

theorem EncodedLength.pushaD (v : BitVec 16) : EncodedLength.Statement (.pushaD v) :=
  ⟨fitsUnsigned16_toNat v, _, _, rfl, rfl, by rw [leBytes_length]; rfl⟩

theorem EncodedLength.pushdB : EncodedLength.Statement .pushdB := ⟨rfl, _, _, rfl, rfl, rfl⟩

theorem EncodedLength.pushdW : EncodedLength.Statement .pushdW := ⟨rfl, _, _, rfl, rfl, rfl⟩

theorem EncodedLength.pushdD : EncodedLength.Statement .pushdD := ⟨rfl, _, _, rfl, rfl, rfl⟩

theorem EncodedLength.popfB (v : BitVec 16) : EncodedLength.Statement (.popfB v) :=
  ⟨fitsSigned16_toInt v, _, _, rfl, rfl, by rw [leBytes_length]; rfl⟩

theorem EncodedLength.popfW (v : BitVec 16) : EncodedLength.Statement (.popfW v) :=
  ⟨fitsSigned16_toInt v, _, _, rfl, rfl, by rw [leBytes_length]; rfl⟩

theorem EncodedLength.popfD (v : BitVec 16) : EncodedLength.Statement (.popfD v) :=
  ⟨fitsSigned16_toInt v, _, _, rfl, rfl, by rw [leBytes_length]; rfl⟩

theorem EncodedLength.popaB (v : BitVec 16) : EncodedLength.Statement (.popaB v) :=
  ⟨fitsUnsigned16_toNat v, _, _, rfl, rfl, by rw [leBytes_length]; rfl⟩

theorem EncodedLength.popaW (v : BitVec 16) : EncodedLength.Statement (.popaW v) :=
  ⟨fitsUnsigned16_toNat v, _, _, rfl, rfl, by rw [leBytes_length]; rfl⟩

theorem EncodedLength.popaD (v : BitVec 16) : EncodedLength.Statement (.popaD v) :=
  ⟨fitsUnsigned16_toNat v, _, _, rfl, rfl, by rw [leBytes_length]; rfl⟩

theorem EncodedLength.popdB : EncodedLength.Statement .popdB := ⟨rfl, _, _, rfl, rfl, rfl⟩

theorem EncodedLength.popdW : EncodedLength.Statement .popdW := ⟨rfl, _, _, rfl, rfl, rfl⟩

theorem EncodedLength.popdD : EncodedLength.Statement .popdD := ⟨rfl, _, _, rfl, rfl, rfl⟩

theorem EncodedLength.addB : EncodedLength.Statement .addB := ⟨rfl, _, _, rfl, rfl, rfl⟩

theorem EncodedLength.addW : EncodedLength.Statement .addW := ⟨rfl, _, _, rfl, rfl, rfl⟩

theorem EncodedLength.addD : EncodedLength.Statement .addD := ⟨rfl, _, _, rfl, rfl, rfl⟩

theorem EncodedLength.subB : EncodedLength.Statement .subB := ⟨rfl, _, _, rfl, rfl, rfl⟩

theorem EncodedLength.subW : EncodedLength.Statement .subW := ⟨rfl, _, _, rfl, rfl, rfl⟩

theorem EncodedLength.subD : EncodedLength.Statement .subD := ⟨rfl, _, _, rfl, rfl, rfl⟩

theorem EncodedLength.mulB : EncodedLength.Statement .mulB := ⟨rfl, _, _, rfl, rfl, rfl⟩

theorem EncodedLength.mulW : EncodedLength.Statement .mulW := ⟨rfl, _, _, rfl, rfl, rfl⟩

theorem EncodedLength.mulD : EncodedLength.Statement .mulD := ⟨rfl, _, _, rfl, rfl, rfl⟩

theorem EncodedLength.divB : EncodedLength.Statement .divB := ⟨rfl, _, _, rfl, rfl, rfl⟩

theorem EncodedLength.divW : EncodedLength.Statement .divW := ⟨rfl, _, _, rfl, rfl, rfl⟩

theorem EncodedLength.divD : EncodedLength.Statement .divD := ⟨rfl, _, _, rfl, rfl, rfl⟩

theorem EncodedLength.modB : EncodedLength.Statement .modB := ⟨rfl, _, _, rfl, rfl, rfl⟩

theorem EncodedLength.modW : EncodedLength.Statement .modW := ⟨rfl, _, _, rfl, rfl, rfl⟩

theorem EncodedLength.modD : EncodedLength.Statement .modD := ⟨rfl, _, _, rfl, rfl, rfl⟩

theorem EncodedLength.andB : EncodedLength.Statement .andB := ⟨rfl, _, _, rfl, rfl, rfl⟩

theorem EncodedLength.andW : EncodedLength.Statement .andW := ⟨rfl, _, _, rfl, rfl, rfl⟩

theorem EncodedLength.andD : EncodedLength.Statement .andD := ⟨rfl, _, _, rfl, rfl, rfl⟩

theorem EncodedLength.orB : EncodedLength.Statement .orB := ⟨rfl, _, _, rfl, rfl, rfl⟩

theorem EncodedLength.orW : EncodedLength.Statement .orW := ⟨rfl, _, _, rfl, rfl, rfl⟩

theorem EncodedLength.orD : EncodedLength.Statement .orD := ⟨rfl, _, _, rfl, rfl, rfl⟩

theorem EncodedLength.xorB : EncodedLength.Statement .xorB := ⟨rfl, _, _, rfl, rfl, rfl⟩

theorem EncodedLength.xorW : EncodedLength.Statement .xorW := ⟨rfl, _, _, rfl, rfl, rfl⟩

theorem EncodedLength.xorD : EncodedLength.Statement .xorD := ⟨rfl, _, _, rfl, rfl, rfl⟩

theorem EncodedLength.shlB : EncodedLength.Statement .shlB := ⟨rfl, _, _, rfl, rfl, rfl⟩

theorem EncodedLength.shlW : EncodedLength.Statement .shlW := ⟨rfl, _, _, rfl, rfl, rfl⟩

theorem EncodedLength.shlD : EncodedLength.Statement .shlD := ⟨rfl, _, _, rfl, rfl, rfl⟩

theorem EncodedLength.shrB : EncodedLength.Statement .shrB := ⟨rfl, _, _, rfl, rfl, rfl⟩

theorem EncodedLength.shrW : EncodedLength.Statement .shrW := ⟨rfl, _, _, rfl, rfl, rfl⟩

theorem EncodedLength.shrD : EncodedLength.Statement .shrD := ⟨rfl, _, _, rfl, rfl, rfl⟩

theorem EncodedLength.jgzB (v : BitVec 16) : EncodedLength.Statement (.jgzB v) :=
  ⟨fitsUnsigned16_toNat v, _, _, rfl, rfl, by rw [leBytes_length]; rfl⟩

theorem EncodedLength.jgzW (v : BitVec 16) : EncodedLength.Statement (.jgzW v) :=
  ⟨fitsUnsigned16_toNat v, _, _, rfl, rfl, by rw [leBytes_length]; rfl⟩

theorem EncodedLength.jgzD (v : BitVec 16) : EncodedLength.Statement (.jgzD v) :=
  ⟨fitsUnsigned16_toNat v, _, _, rfl, rfl, by rw [leBytes_length]; rfl⟩

theorem EncodedLength.jgezB (v : BitVec 16) : EncodedLength.Statement (.jgezB v) :=
  ⟨fitsUnsigned16_toNat v, _, _, rfl, rfl, by rw [leBytes_length]; rfl⟩

theorem EncodedLength.jgezW (v : BitVec 16) : EncodedLength.Statement (.jgezW v) :=
  ⟨fitsUnsigned16_toNat v, _, _, rfl, rfl, by rw [leBytes_length]; rfl⟩

theorem EncodedLength.jgezD (v : BitVec 16) : EncodedLength.Statement (.jgezD v) :=
  ⟨fitsUnsigned16_toNat v, _, _, rfl, rfl, by rw [leBytes_length]; rfl⟩

theorem EncodedLength.jezB (v : BitVec 16) : EncodedLength.Statement (.jezB v) :=
  ⟨fitsUnsigned16_toNat v, _, _, rfl, rfl, by rw [leBytes_length]; rfl⟩

theorem EncodedLength.jezW (v : BitVec 16) : EncodedLength.Statement (.jezW v) :=
  ⟨fitsUnsigned16_toNat v, _, _, rfl, rfl, by rw [leBytes_length]; rfl⟩

theorem EncodedLength.jezD (v : BitVec 16) : EncodedLength.Statement (.jezD v) :=
  ⟨fitsUnsigned16_toNat v, _, _, rfl, rfl, by rw [leBytes_length]; rfl⟩

theorem EncodedLength.jnezB (v : BitVec 16) : EncodedLength.Statement (.jnezB v) :=
  ⟨fitsUnsigned16_toNat v, _, _, rfl, rfl, by rw [leBytes_length]; rfl⟩

theorem EncodedLength.jnezW (v : BitVec 16) : EncodedLength.Statement (.jnezW v) :=
  ⟨fitsUnsigned16_toNat v, _, _, rfl, rfl, by rw [leBytes_length]; rfl⟩

theorem EncodedLength.jnezD (v : BitVec 16) : EncodedLength.Statement (.jnezD v) :=
  ⟨fitsUnsigned16_toNat v, _, _, rfl, rfl, by rw [leBytes_length]; rfl⟩

theorem EncodedLength.jmp (v : BitVec 16) : EncodedLength.Statement (.jmp v) :=
  ⟨fitsUnsigned16_toNat v, _, _, rfl, rfl, by rw [leBytes_length]; rfl⟩

theorem EncodedLength.call (v : BitVec 16) : EncodedLength.Statement (.call v) :=
  ⟨fitsUnsigned16_toNat v, _, _, rfl, rfl, by rw [leBytes_length]; rfl⟩

theorem EncodedLength.ret (v : BitVec 16) : EncodedLength.Statement (.ret v) :=
  ⟨fitsUnsigned16_toNat v, _, _, rfl, rfl, by rw [leBytes_length]; rfl⟩

theorem EncodedLength.ecall (v : BitVec 16) : EncodedLength.Statement (.ecall v) :=
  ⟨fitsUnsigned16_toNat v, _, _, rfl, rfl, by rw [leBytes_length]; rfl⟩

theorem EncodedLength.sync : EncodedLength.Statement .sync := ⟨rfl, _, _, rfl, rfl, rfl⟩

theorem EncodedLength.async : EncodedLength.Statement .async := ⟨rfl, _, _, rfl, rfl, rfl⟩

end Sys2Proof.Laws
end

