-- ==== Sys2Proof/Tests/Slice0.lean ====
section
/-! SUPPORT. Tests: ill-formed lines, decoding of words written out from the spec's encodings, single steps whose
results are the spec's examples (40 to 47 and 95_test_vectors.md), and for each statement with hypotheses a
concrete state and operands that meet them, at the boundary of each clause. -/

namespace Sys2Proof.Tests

open Sys2Proof.Machine

/-! ## Well-formedness (R114) -/

theorem test_ill_formed_operand_on_format_n : AsmLine.wellFormed ⟨.n, some 0⟩ = false := by decide

theorem test_ill_formed_missing_operand : AsmLine.wellFormed ⟨.i8, none⟩ = false := by decide

theorem test_ill_formed_i8 :
    AsmLine.wellFormed ⟨.i8, some 256⟩ = false ∧ AsmLine.wellFormed ⟨.i8, some (-129)⟩ = false := by decide

theorem test_ill_formed_i16 :
    AsmLine.wellFormed ⟨.i16, some 65536⟩ = false ∧ AsmLine.wellFormed ⟨.i16, some (-32769)⟩ = false := by decide

theorem test_ill_formed_i32 :
    AsmLine.wellFormed ⟨.i32, some 4294967296⟩ = false ∧
    AsmLine.wellFormed ⟨.i32, some (-2147483649)⟩ = false := by decide

theorem test_ill_formed_f16 :
    AsmLine.wellFormed ⟨.f16, some 32768⟩ = false ∧ AsmLine.wellFormed ⟨.f16, some (-32769)⟩ = false := by decide

theorem test_ill_formed_a16 :
    AsmLine.wellFormed ⟨.a16, some 65536⟩ = false ∧ AsmLine.wellFormed ⟨.a16, some (-1)⟩ = false := by decide

theorem test_ill_formed_u16 :
    AsmLine.wellFormed ⟨.u16, some 65536⟩ = false ∧ AsmLine.wellFormed ⟨.u16, some (-1)⟩ = false := by decide

theorem test_well_formed : AsmLine.wellFormed ⟨.i8, some (-128)⟩ = true ∧ AsmLine.wellFormed ⟨.n, none⟩ = true ∧
    AsmLine.wellFormed ⟨.u16, some 65535⟩ = true := by decide

/-! ## Decoding of the words of R131 to R242 -/

theorem test_decode_push :
    decode [0x04, 0x2A] = .ok (.pushiB 0x2A, []) ∧
    decode [0x05, 0x05, 0x00] = .ok (.pushiW 0x0005, []) ∧
    decode [0x06, 0x78, 0x56, 0x34, 0x12] = .ok (.pushiD 0x12345678, []) ∧
    decode [0x08, 0xFB, 0xFF] = .ok (.pushfB (-5), []) ∧
    decode [0x09, 0xFA, 0xFF] = .ok (.pushfW (-6), []) ∧
    decode [0x0A, 0xF8, 0xFF] = .ok (.pushfD (-8), []) ∧
    decode [0x0C, 0x40, 0x00] = .ok (.pushaB 0x0040, []) ∧
    decode [0x0D, 0x40, 0x00] = .ok (.pushaW 0x0040, []) ∧
    decode [0x0E, 0x40, 0x00] = .ok (.pushaD 0x0040, []) ∧
    decode [0x10] = .ok (.pushdB, []) ∧
    decode [0x11] = .ok (.pushdW, []) ∧
    decode [0x12] = .ok (.pushdD, []) := ⟨rfl, rfl, rfl, rfl, rfl, rfl, rfl, rfl, rfl, rfl, rfl, rfl⟩

theorem test_decode_pop :
    decode [0x14, 0x00, 0x00] = .ok (.popfB 0, []) ∧
    decode [0x15, 0xFE, 0xFF] = .ok (.popfW (-2), []) ∧
    decode [0x16, 0x03, 0x00] = .ok (.popfD 3, []) ∧
    decode [0x18, 0x40, 0x00] = .ok (.popaB 0x0040, []) ∧
    decode [0x19, 0x02, 0x01] = .ok (.popaW 0x0102, []) ∧
    decode [0x1A, 0x40, 0x00] = .ok (.popaD 0x0040, []) ∧
    decode [0x1C] = .ok (.popdB, []) ∧
    decode [0x1D] = .ok (.popdW, []) ∧
    decode [0x1E] = .ok (.popdD, []) := ⟨rfl, rfl, rfl, rfl, rfl, rfl, rfl, rfl, rfl⟩

theorem test_decode_arithmetic :
    [0x20, 0x21, 0x22, 0x24, 0x25, 0x26, 0x28, 0x29, 0x2A, 0x2C, 0x2D, 0x2E, 0x30, 0x31, 0x32].map
      (decodeTableWord 8) =
    [.addB, .addW, .addD, .subB, .subW, .subD, .mulB, .mulW, .mulD, .divB, .divW, .divD, .modB, .modW, .modD].map
      some := by decide

theorem test_decode_logic :
    [0x34, 0x35, 0x36, 0x38, 0x39, 0x3A, 0x3C, 0x3D, 0x3E, 0x40, 0x41, 0x42, 0x44, 0x45, 0x46].map
      (decodeTableWord 8) =
    [.andB, .andW, .andD, .orB, .orW, .orD, .xorB, .xorW, .xorD, .shlB, .shlW, .shlD, .shrB, .shrW, .shrD].map
      some := by decide

theorem test_decode_jumps :
    [0x002048, 0x002049, 0x00204A, 0x00204C, 0x00204D, 0x00204E,
      0x002050, 0x002051, 0x002052, 0x002054, 0x002055, 0x002056].map (decodeTableWord 24) =
    [.jgzB 0x20, .jgzW 0x20, .jgzD 0x20, .jgezB 0x20, .jgezW 0x20, .jgezD 0x20,
      .jezB 0x20, .jezW 0x20, .jezD 0x20, .jnezB 0x20, .jnezW 0x20, .jnezD 0x20].map some := by decide

theorem test_decode_control :
    decode [0x60, 0x34, 0x12] = .ok (.jmp 0x1234, []) ∧
    decode [0x61, 0x40, 0x00] = .ok (.call 0x0040, []) ∧
    decode [0x62, 0x08, 0x00] = .ok (.ret 8, []) ∧
    decode [0x63, 0x01, 0x00] = .ok (.ecall 1, []) ∧
    decode [0x64] = .ok (.sync, []) ∧
    decode [0x65] = .ok (.async, []) := ⟨rfl, rfl, rfl, rfl, rfl, rfl⟩

theorem test_decode_rejects :
    decode [0x07] = .error (.illegalOpcode 0x07) ∧ decode [0x05, 0x00] = .error (.truncated 0x05) ∧
    decode [] = .error .empty := ⟨rfl, rfl, rfl⟩

/-! ## A small state -/

/-- Small parameters (R7). -/
def tiny : Params where
  memCap := 64
  nThreads := 2
  nBins := 2
  binCap := 8
  frameCap := 12
  txringCap := 16
  maxActDepth := 2
  rxTimeoutEnable := true
  ledReset := .off

/-- A linked image with 16 bytes of program section, thread 0 running with its stack in `[16, 40)`, every byte of
memory zero but `bs` from `a`. -/
def base (a : Nat) (bs : List Byte) : State :=
  { State.boot tiny with
    mem := Memory.putAll (Memory.putAll [] 0 (List.replicate 64 0)) a bs
    threads := [
      { pc := 0, sp := 32, fp := 24, bottom := 16, top := 40, free := false },
      { pc := 0, sp := 40, fp := 0, bottom := 40, top := 64, free := true }]
    threadFree := [1]
    actStack := [{ kind := .root, thread := 0, savedFp := 0, obj := 0 }]
    imageValid := true
    externB := 16
    confirmedReceived := 24
    totalLen := 24 }

/-- Thread 0's stack holds `bs` from its bottom. -/
def stacked (bs : List Byte) : State := setSp 0 (BitVec.ofNat 16 (16 + bs.length)) (base 16 bs)

/-- Thread 0's stack pointer is `n`, and the word `w` is on top. -/
def spAt (n : Nat) (w : Word) : State := setSp 0 (BitVec.ofNat 16 n) (base (n - 2) (slices 2 w))

/-- One thing a next state shows. -/
def look {α : Type} (o : Host.Outcome State Fault Refusal) (f : State → α) : Option α :=
  match o with
  | .next s => some (f s)
  | .fault _ => none
  | .refused _ => none

/-- The stack pointer of thread 0 and the bytes from the bottom of its stack. -/
def stackOf (k : Nat) (s : State) : Word × List Byte := ((s.thread 0).sp, s.readBytes 16 k)

/-- The fault recorded, if one is, with its pc. -/
def faultOf (s : State) : Option (FaultCode × Option Addr) :=
  if s.fault.valid then some (s.fault.code, s.fault.pc) else none

/-! ## Single steps -/

/-- R131 to R133, examples. -/
theorem test_pushi :
    look (exec (.pushiB 0x2A) (stacked [])) (stackOf 1) = some (17, [0x2A]) ∧
    look (exec (.pushiW 0x0005) (stacked [])) (stackOf 2) = some (18, [0x05, 0x00]) ∧
    look (exec (.pushiD 0x12345678) (stacked [])) (stackOf 4) = some (20, [0x78, 0x56, 0x34, 0x12]) := by decide

/-- R134 to R136: `fp` is 24; an offset that passes 0 wraps (R79, V-E8). -/
theorem test_pushf :
    look (exec (.pushfB (-5)) (stacked [1, 2, 3, 0x2A])) (stackOf 5) = some (21, [1, 2, 3, 0x2A, 0x2A]) ∧
    look (exec (.pushfW (-8)) (stacked [0xEF, 0xBE])) (stackOf 4) = some (20, [0xEF, 0xBE, 0xEF, 0xBE]) ∧
    look (exec (.pushfD (-8)) (stacked [1, 2, 3, 4])) (stackOf 8) = some (24, [1, 2, 3, 4, 1, 2, 3, 4]) ∧
    look (exec (.pushfW (-25)) (stacked [])) faultOf = some (some (.memOutOfBounds, some 0)) := by decide

/-- R137 to R139, and R75: any index is legal. -/
theorem test_pusha :
    look (exec (.pushaB 17) (stacked [1, 2])) (stackOf 3) = some (19, [1, 2, 2]) ∧
    look (exec (.pushaW 17) (stacked [1, 2, 3])) (stackOf 5) = some (21, [1, 2, 3, 2, 3]) ∧
    look (exec (.pushaD 16) (stacked [1, 2, 3, 4])) (stackOf 8) = some (24, [1, 2, 3, 4, 1, 2, 3, 4]) := by decide

/-- R140 to R142: the address popped is replaced by the bytes at it. -/
theorem test_pushd :
    look (exec .pushdB (stacked [9, 16, 0])) (stackOf 2) = some (18, [9, 9]) ∧
    look (exec .pushdW (stacked [9, 8, 16, 0])) (stackOf 4) = some (20, [9, 8, 9, 8]) ∧
    look (exec .pushdD (stacked [9, 8, 7, 6, 16, 0])) (stackOf 8) = some (24, [9, 8, 7, 6, 9, 8, 7, 6]) := by decide

/-- R143 to R145: into the return frame and the parameters. -/
theorem test_popf :
    look (exec (.popfB (-8)) (stacked [0, 0x99])) (stackOf 1) = some (17, [0x99]) ∧
    look (exec (.popfW (-8)) (stacked [0, 0, 0x0C, 0x01])) (stackOf 2) = some (18, [0x0C, 0x01]) ∧
    look (exec (.popfD (-8)) (stacked [0, 0, 0, 0, 1, 2, 3, 4])) (stackOf 4) = some (20, [1, 2, 3, 4]) := by decide

/-- R146 to R148. -/
theorem test_popa :
    look (exec (.popaB 5) (stacked [0x99])) (fun s => s.readBytes 5 2) = some [0x99, 0] ∧
    look (exec (.popaW 5) (stacked [1, 2])) (fun s => s.readBytes 5 3) = some [1, 2, 0] ∧
    look (exec (.popaD 5) (stacked [1, 2, 3, 4])) (fun s => s.readBytes 5 5) = some [1, 2, 3, 4, 0] := by decide

/-- R149 to R151: the address is on top, the value beneath. -/
theorem test_popd :
    look (exec .popdB (stacked [0x99, 5, 0])) (fun s => s.readBytes 5 2) = some [0x99, 0] ∧
    look (exec .popdW (stacked [1, 2, 5, 0])) (fun s => s.readBytes 5 3) = some [1, 2, 0] ∧
    look (exec .popdD (stacked [1, 2, 3, 4, 5, 0])) (stackOf 0) = some (16, []) := by decide

/-- V-A: `a` is beneath, `b` on top. -/
theorem test_add_sub_mul :
    look (exec .addB (stacked [0xFF, 0x01])) (stackOf 1) = some (17, [0x00]) ∧
    look (exec .addW (stacked [0xFF, 0xFF, 1, 0])) (stackOf 2) = some (18, [0, 0]) ∧
    look (exec .addD (stacked [0xFF, 0xFF, 0xFF, 0x7F, 1, 0, 0, 0])) (stackOf 4) = some (20, [0, 0, 0, 0x80]) ∧
    look (exec .subB (stacked [0x00, 0x01])) (stackOf 1) = some (17, [0xFF]) ∧
    look (exec .subW (stacked [0x00, 0x80, 1, 0])) (stackOf 2) = some (18, [0xFF, 0x7F]) ∧
    look (exec .mulB (stacked [0x80, 0x02])) (stackOf 1) = some (17, [0x00]) ∧
    look (exec .mulW (stacked [0xFF, 0xFF, 0xFF, 0xFF])) (stackOf 2) = some (18, [0x01, 0x00]) := by decide

/-- V-A. -/
theorem test_div_mod :
    look (exec .divB (stacked [0xF9, 0x02])) (stackOf 1) = some (17, [0xFD]) ∧
    look (exec .divB (stacked [0x80, 0xFF])) (stackOf 1) = some (17, [0x80]) ∧
    look (exec .divW (stacked [0xFF, 0xFF, 1, 0])) (stackOf 2) = some (18, [0xFF, 0xFF]) ∧
    look (exec .modB (stacked [0xF9, 0x02])) (stackOf 1) = some (17, [0xFF]) ∧
    look (exec .modB (stacked [0x07, 0xFE])) (stackOf 1) = some (17, [0x01]) ∧
    look (exec .modW (stacked [0xFE, 0xFF, 3, 0])) (stackOf 2) = some (18, [0xFE, 0xFF]) ∧
    look (exec .divB (stacked [0x01, 0x00])) faultOf = some (some (.divideByZero, some 0)) := by decide

/-- V-A. -/
theorem test_logic_shift :
    look (exec .andB (stacked [0xF0, 0x3C])) (stackOf 1) = some (17, [0x30]) ∧
    look (exec .orB (stacked [0xF0, 0x3C])) (stackOf 1) = some (17, [0xFC]) ∧
    look (exec .xorW (stacked [0x34, 0x12, 0xFF, 0xFF])) (stackOf 2) = some (18, [0xCB, 0xED]) ∧
    look (exec .shlB (stacked [0x01, 0x07])) (stackOf 1) = some (17, [0x80]) ∧
    look (exec .shlB (stacked [0xFF, 0xFF])) (stackOf 1) = some (17, [0x00]) ∧
    look (exec .shlW (stacked [0x01, 0x80, 1, 0])) (stackOf 2) = some (18, [0x02, 0x00]) ∧
    look (exec .shrB (stacked [0x80, 0x08])) (stackOf 1) = some (17, [0xFF]) ∧
    look (exec .shrB (stacked [0x7F, 0x08])) (stackOf 1) = some (17, [0x00]) ∧
    look (exec .shrW (stacked [0x00, 0x80, 0x0F, 0])) (stackOf 2) = some (18, [0xFF, 0xFF]) := by decide

/-- V-J: the pc after each jump, for 0, 1 and -128. -/
theorem test_jumps :
    [0x00, 0x01, 0x80].map (fun v => look (exec (.jgzB 0x20) (stacked [v])) (fun s => (s.thread 0).pc)) =
      [some 3, some 0x20, some 3] ∧
    [0x00, 0x01, 0x80].map (fun v => look (exec (.jgezB 0x20) (stacked [v])) (fun s => (s.thread 0).pc)) =
      [some 0x20, some 0x20, some 3] ∧
    [0x00, 0x01, 0x80].map (fun v => look (exec (.jezB 0x20) (stacked [v])) (fun s => (s.thread 0).pc)) =
      [some 0x20, some 3, some 3] ∧
    [0x00, 0x01, 0x80].map (fun v => look (exec (.jnezB 0x20) (stacked [v])) (fun s => (s.thread 0).pc)) =
      [some 3, some 0x20, some 0x20] := by decide

/-- R213: return address first, frame pointer second. -/
theorem test_call :
    look (exec (.call 7) (stacked [])) (stackOf 4) = some (20, [0x03, 0x00, 0x18, 0x00]) ∧
    look (exec (.call 7) (stacked [])) (fun s => ((s.thread 0).fp, (s.thread 0).pc)) = some (20, 7) := by decide

/-- R214: the frame at 20 .. 23 says "return to 5 with frame pointer 18"; two bytes of parameters are dropped. -/
theorem test_ret :
    look (exec (.ret 2) (base 20 [5, 0, 18, 0])) (fun s => ((s.thread 0).pc, (s.thread 0).sp, (s.thread 0).fp)) =
      some (5, 18, 18) ∧
    look (exec (.ret 2) (base 20 [5, 0, 0, 0])) (fun s => (s.actStack, s.threadFree, s.outputs)) =
      some ([], [0, 1], [.activationDone 0]) := by decide

/-- R232 to R235: the LED; a callback; a busy or idle transmitter. -/
theorem test_ecall :
    look (exec (.ecall 0) (stacked [])) (fun s => (s.led, (s.thread 0).pc, s.outputs)) =
      some (.on, 3, [.led .on]) ∧
    look (exec (.ecall 1) (stacked [1])) (fun s => (s.led, (s.thread 0).sp)) = some (.off, 16) ∧
    look (exec (.ecall 2) (stacked [0x40, 0, 0x08, 0])) (fun s => (s.cbObj, s.cbMethod, s.cbValid)) =
      some (0x08, 0x40, true) ∧
    look (exec (.ecall 3) (stacked [0x01, 0x7E, 9, 16, 0])) (fun s => (s.txQueue, s.outputs)) =
      some ([0x7D, 0x5E, 0x7E], [.txByte 0x7E]) ∧
    look (exec (.ecall 3) (stacked [0x01, 0x7E, 9, 16, 0])) (stackOf 3) = some (19, [0x01, 0x7E, 0x00]) ∧
    look (exec (.ecall 4) (stacked [])) faultOf = some (some (.illegalNative, some 0)) := by decide

/-- R240: object on top, method beneath; the frame takes their place. -/
theorem test_sync :
    look (exec .sync (stacked [0x40, 0, 0x08, 0])) (stackOf 4) = some (20, [1, 0, 0, 0]) ∧
    look (exec .sync (stacked [0x40, 0, 0x08, 0]))
      (fun s => ((s.thread 0).fp, (s.thread 0).pc, s.syncWait, s.outputs)) =
      some (20, 0x40, true, [.schedSync 0x08 0x40 0]) := by decide

/-- R242, example. -/
theorem test_async :
    look (exec .async (stacked [0xAA, 0xBB, 0x40, 0, 0x08, 0, 0x64, 0, 0, 0, 0, 0, 0, 0, 2, 0]))
      (fun s => ((s.thread 0).sp, s.binFree, s.binBytes 0 2, s.outputs)) =
    some (16, [1], [0xAA, 0xBB], [.schedAsync 0x08 0 100 0]) := by decide

/-- `base`, with bin 0 holding a call of method 0x40 with the arguments AA BB. -/
def calling : State :=
  { base 0 [] with
    bins := [
      { data := [(0, 0xAA), (1, 0xBB)], argSize := 2, method := 0x40, origin := none, free := false }, Bin.reset]
    binFree := [1] }

/-- R244, example. -/
theorem test_dispatch :
    let s := inputEvent (.dispatch 0) calling
    (s.thread 1).sp = 46 ∧ (s.thread 1).pc = 0x40 ∧ s.readBytes 40 6 = [0xAA, 0xBB, 0, 0, 0, 0] ∧
    s.cur? = some 1 ∧ s.binFree = [0, 1] := by decide

/-- R104: the step at a linked image runs the instruction at `pc`; past the extern boundary it faults. -/
theorem test_step :
    look (step (base 0 [0x60, 0x34, 0x12])) (fun s => (s.thread 0).pc) = some 0x1234 ∧
    look (step (setPc 0 16 (base 0 []))) faultOf = some (some (.fetchOutOfCode, some 16)) ∧
    look (step (base 0 [])) faultOf = some (some (.illegalOpcode, some 0)) := by decide

/-- V-F14: an escaped reset header. -/
theorem test_reset_frame : (receive [0x7E, 0x7D, 0x24, 0x7E] (base 0 [])).outputs = [.restart] := by decide

/-- V-K15: a whole image of four bytes is acknowledged and ends in a link error. -/
theorem test_init_segment :
    let s := receive [0x7E, 0x01, 0x04, 0x00, 0x01, 0x02, 0x03, 0x04, 0x0E, 0x7E] (State.boot tiny)
    s.confirmedReceived = 4 ∧ s.linkError = true ∧ s.txQueue = [0x03, 0x04, 0x00, 0x00, 0x7E] := by decide

/-- The host's placing: the instruction is fetched and run as the first one after reset. -/
theorem test_with_fetch_word :
    look (step (State.reset.withFetchWord 24 0x123460)) (fun s => (s.thread 0).pc) = some 0x1234 := by
  decide +kernel

/-! ## Witnesses: for each statement with hypotheses, states and operands that meet them -/

/-- For each width `k`: the last address that fits and the first that does not. -/
theorem witness_MemoryAccess : ∀ k ∈ [1, 2, 4],
    (BitVec.ofNat 16 (64 - k) : Addr).toNat + k ≤ (base 0 []).params.memCap ∧
    (base 0 []).params.memCap < (BitVec.ofNat 16 (65 - k) : Addr).toNat + k := by decide

/-- Room to the last byte, and one byte too little. -/
theorem witness_PushImmediate : ∀ k ∈ [1, 2, 4],
    (Ready (spAt (40 - k) 0) 0 ∧
      ((spAt (40 - k) 0).thread 0).sp.toNat + k ≤ ((spAt (40 - k) 0).thread 0).top.toNat) ∧
    ((spAt (41 - k) 0).cur? = some 0 ∧
      ((spAt (41 - k) 0).thread 0).top.toNat < ((spAt (41 - k) 0).thread 0).sp.toNat + k) := by decide

/-- The slot at the end of the arena (offset 40 - k from fp 24), the one after it, and a full stack. -/
theorem witness_PushSlot : ∀ k ∈ [1, 2, 4],
    (Ready (spAt (40 - k) 0) 0 ∧
      ((spAt (40 - k) 0).slotEa 0 (BitVec.ofNat 16 (40 - k))).toNat + k = (spAt (40 - k) 0).params.memCap ∧
      ((spAt (40 - k) 0).thread 0).sp.toNat + k ≤ ((spAt (40 - k) 0).thread 0).top.toNat) ∧
    (spAt 32 0).params.memCap < ((spAt 32 0).slotEa 0 (BitVec.ofNat 16 (41 - k))).toNat + k ∧
    (((spAt (41 - k) 0).slotEa 0 (BitVec.ofNat 16 (40 - k))).toNat + k ≤ (spAt (41 - k) 0).params.memCap ∧
      ((spAt (41 - k) 0).thread 0).top.toNat < ((spAt (41 - k) 0).thread 0).sp.toNat + k) := by decide

theorem witness_PushAbsolute : ∀ k ∈ [1, 2, 4],
    (Ready (spAt (40 - k) 0) 0 ∧ (BitVec.ofNat 16 (64 - k) : Addr).toNat + k ≤ (spAt (40 - k) 0).params.memCap ∧
      ((spAt (40 - k) 0).thread 0).sp.toNat + k ≤ ((spAt (40 - k) 0).thread 0).top.toNat) ∧
    ((spAt 32 0).cur? = some 0 ∧ (spAt 32 0).params.memCap < (BitVec.ofNat 16 (65 - k) : Addr).toNat + k) ∧
    ((spAt (41 - k) 0).thread 0).top.toNat < ((spAt (41 - k) 0).thread 0).sp.toNat + k := by decide

/-- One byte on the stack; two, which are the address: in range to the last byte, and out of range by one. For four
bytes also the stack that the push just fills, and one byte less room. -/
theorem witness_PushDereference :
    (Ready (spAt 17 0) 0 ∧ ((spAt 17 0).thread 0).sp.toNat < ((spAt 17 0).thread 0).bottom.toNat + 2) ∧
    (∀ k ∈ [1, 2, 4], Ready (spAt 18 (BitVec.ofNat 16 (64 - k))) 0 ∧
      ((spAt 18 0).thread 0).bottom.toNat + 2 ≤ ((spAt 18 0).thread 0).sp.toNat ∧
      ((spAt 18 (BitVec.ofNat 16 (64 - k))).valueAt 16 16).toNat + k ≤ 64 ∧
      64 < ((spAt 18 (BitVec.ofNat 16 (65 - k))).valueAt 16 16).toNat + k) ∧
    (Ready (spAt 38 0) 0 ∧
      ((spAt 38 0).thread 0).sp.toNat + 4 ≤ ((spAt 38 0).thread 0).top.toNat + 2) ∧
    (Ready (spAt 39 0) 0 ∧
      ((spAt 39 0).thread 0).top.toNat + 2 < ((spAt 39 0).thread 0).sp.toNat + 4) := by decide

/-- Just enough on the stack for a pop of `k` bytes, and one byte less. -/
theorem witness_PopSlot : ∀ k ∈ [1, 2, 4],
    (Ready (spAt (16 + k) 0) 0 ∧
      ((spAt (16 + k) 0).thread 0).bottom.toNat + k ≤ ((spAt (16 + k) 0).thread 0).sp.toNat) ∧
    ((spAt (15 + k) 0).cur? = some 0 ∧
      ((spAt (15 + k) 0).thread 0).sp.toNat < ((spAt (15 + k) 0).thread 0).bottom.toNat + k) ∧
    ((spAt (16 + k) 0).slotEa 0 (BitVec.ofNat 16 (40 - k))).toNat + k ≤ (spAt (16 + k) 0).params.memCap ∧
    (spAt (16 + k) 0).params.memCap < ((spAt (16 + k) 0).slotEa 0 (BitVec.ofNat 16 (41 - k))).toNat + k := by decide

theorem witness_PopAbsolute : ∀ k ∈ [1, 2, 4],
    (Ready (spAt (16 + k) 0) 0 ∧
      ((spAt (16 + k) 0).thread 0).bottom.toNat + k ≤ ((spAt (16 + k) 0).thread 0).sp.toNat) ∧
    ((spAt (15 + k) 0).thread 0).sp.toNat < ((spAt (15 + k) 0).thread 0).bottom.toNat + k ∧
    (BitVec.ofNat 16 (64 - k) : Addr).toNat + k ≤ (spAt (16 + k) 0).params.memCap ∧
    (spAt (16 + k) 0).params.memCap < (BitVec.ofNat 16 (65 - k) : Addr).toNat + k := by decide

theorem witness_PopDereference : ∀ k ∈ [1, 2, 4],
    (Ready (spAt (17 + k) 0) 0 ∧
      ((spAt (17 + k) 0).thread 0).sp.toNat < ((spAt (17 + k) 0).thread 0).bottom.toNat + (2 + k)) ∧
    (Ready (spAt (18 + k) (BitVec.ofNat 16 (64 - k))) 0 ∧
      ((spAt (18 + k) 0).thread 0).bottom.toNat + (2 + k) ≤ ((spAt (18 + k) 0).thread 0).sp.toNat ∧
      ((spAt (18 + k) (BitVec.ofNat 16 (64 - k))).valueAt 16 (16 + k)).toNat + k ≤ 64 ∧
      64 < ((spAt (18 + k) (BitVec.ofNat 16 (65 - k))).valueAt 16 (16 + k)).toNat + k) := by decide

/-- Just enough on the stack for two values of `k` bytes, and one byte less. -/
theorem witness_binary : ∀ k ∈ [1, 2, 4],
    (Ready (spAt (15 + 2 * k) 0) 0 ∧
      ((spAt (15 + 2 * k) 0).thread 0).sp.toNat < ((spAt (15 + 2 * k) 0).thread 0).bottom.toNat + 2 * k) ∧
    (Ready (spAt (16 + 2 * k) 0) 0 ∧
      ((spAt (16 + 2 * k) 0).thread 0).bottom.toNat + 2 * k ≤ ((spAt (16 + 2 * k) 0).thread 0).sp.toNat) := by
  decide

theorem witness_WrappingArithmetic : Ready (stacked [0xFF, 0x01]) 0 ∧
    ((stacked [0xFF, 0x01]).thread 0).bottom.toNat + 2 * (8 / 8) ≤ ((stacked [0xFF, 0x01]).thread 0).sp.toNat := by
  decide

/-- A zero divisor and the least one that is not zero. -/
theorem witness_SignedDivision :
    (Ready (stacked [7, 0, 0, 0]) 0 ∧ (stacked [7, 0, 0, 0]).opB 0 8 = 0 ∧ (stacked [7, 0, 0, 0]).opB 0 16 = 0) ∧
    (Ready (stacked [7, 0, 1, 0]) 0 ∧ (stacked [7, 0, 1, 0]).opB 0 16 ≠ 0) ∧
    (Ready (stacked [0, 0, 0, 0, 0, 0, 0, 0x80]) 0 ∧ (stacked [0, 0, 0, 0, 0, 0, 0, 0x80]).opB 0 32 ≠ 0) := by
  decide

theorem witness_BitwiseLogic : Ready (stacked [0xF0, 0x3C]) 0 ∧
    ((stacked [0xF0, 0x3C]).thread 0).bottom.toNat + 2 * (8 / 8) ≤ ((stacked [0xF0, 0x3C]).thread 0).sp.toNat := by
  decide

theorem witness_Shifts : Ready (stacked [0x80, 0x08]) 0 ∧
    ((stacked [0x80, 0x08]).thread 0).bottom.toNat + 2 * (8 / 8) ≤ ((stacked [0x80, 0x08]).thread 0).sp.toNat := by
  decide

theorem witness_Jump : (base 0 []).cur? = some 0 := by decide

/-- Zero, one and the most negative value, and an empty stack. -/
theorem witness_SignedJumps :
    (Ready (stacked [0]) 0 ∧ ¬ 0 < ((stacked [0]).opB 0 8).toInt ∧ 0 ≤ ((stacked [0]).opB 0 8).toInt) ∧
    (Ready (stacked [1]) 0 ∧ 0 < ((stacked [1]).opB 0 8).toInt) ∧
    (Ready (stacked [0x80]) 0 ∧ ¬ 0 ≤ ((stacked [0x80]).opB 0 8).toInt) ∧
    ((stacked []).cur? = some 0 ∧
      ((stacked []).thread 0).sp.toNat < ((stacked []).thread 0).bottom.toNat + 8 / 8) := by decide

theorem witness_ZeroJumps :
    (Ready (stacked [0, 0]) 0 ∧ (stacked [0, 0]).opB 0 16 = 0) ∧
    (Ready (stacked [0, 1]) 0 ∧ (stacked [0, 1]).opB 0 16 ≠ 0) ∧
    ((stacked [0]).thread 0).sp.toNat < ((stacked [0]).thread 0).bottom.toNat + 16 / 8 := by decide

/-- Room for the frame to the last byte, and one byte too little. -/
theorem witness_Call :
    (Ready (spAt 36 0) 0 ∧ ((spAt 36 0).thread 0).sp.toNat + 4 ≤ ((spAt 36 0).thread 0).top.toNat) ∧
    ((spAt 37 0).cur? = some 0 ∧ ((spAt 37 0).thread 0).top.toNat < ((spAt 37 0).thread 0).sp.toNat + 4) := by decide

/-- `base` with frame pointer `fp`, the frame beneath it `bs`, and a top activation of kind `k`. -/
def returning (fp : Nat) (bs : List Byte) (k : ActKind) : State :=
  { setFp 0 (BitVec.ofNat 16 fp) (base (fp - 4) bs) with
    actStack := [{ kind := k, thread := 0, savedFp := 18, obj := 8 }] }

/-- Frame pointers outside and just inside the stack; a caller in the activation, the end of a SYNC's callee, the
end of a root; a count that just fits and one too large. -/
theorem witness_Return :
    ((returning 24 [] .root).cur? = some 0 ∧
      ((returning 24 [] .root).thread 0).top.toNat ≤ (returning 24 [] .root).params.memCap) ∧
    (∀ fp ∈ [19, 41], ¬ (16 + 4 ≤ ((returning fp [] .root).thread 0).fp.toNat ∧
      ((returning fp [] .root).thread 0).fp.toNat ≤ 40)) ∧
    (∀ fp ∈ [20, 40], 16 + 4 ≤ ((returning fp [5, 0, 18, 0] .root).thread 0).fp.toNat ∧
      ((returning fp [5, 0, 18, 0] .root).thread 0).fp.toNat ≤ 40 ∧
      (returning fp [5, 0, 18, 0] .root).valueAt 16 (fp - 2) ≠ 0) ∧
    (returning 24 [5, 0, 0, 0] .sync).valueAt 16 22 = 0 ∧
    (16 + (4 : Word).toNat + 4 ≤ ((returning 24 [] .sync).thread 0).fp.toNat ∧
      ((returning 24 [] .sync).thread 0).fp.toNat < 16 + (5 : Word).toNat + 4) := by decide

theorem witness_CallThenReturn : Ready (spAt 36 0) 0 ∧ ((spAt 36 0).thread 0).fp ≠ 0 ∧
    ((spAt 36 0).thread 0).sp.toNat + 4 ≤ ((spAt 36 0).thread 0).top.toNat := by decide

theorem witness_NativeLed :
    (Ready (spAt 16 0) 0 ∧ ((spAt 16 0).thread 0).sp.toNat + 4 ≤ ((spAt 16 0).thread 0).top.toNat ∧
      Led.on ≠ (spAt 16 0).led) ∧
    (Ready (stacked [0]) 0 ∧ (Led.on = .on ↔ (stacked [0]).opB 0 8 = 0) ∧
      ((stacked [0]).thread 0).bottom.toNat + 1 ≤ ((stacked [0]).thread 0).sp.toNat) ∧
    (Ready (stacked [2]) 0 ∧ (Led.off = .on ↔ (stacked [2]).opB 0 8 = 0)) := by decide

theorem witness_NativeRegisterCallback : Ready (stacked [1, 2, 3, 4]) 0 ∧
    ((stacked [1, 2, 3, 4]).thread 0).bottom.toNat + 4 ≤ ((stacked [1, 2, 3, 4]).thread 0).sp.toNat ∧
    ((stacked [1, 2, 3, 4]).thread 0).sp.toNat + 4 ≤ ((stacked [1, 2, 3, 4]).thread 0).top.toNat := by decide

/-- A buffer that lies in memory, one whose length byte is its last byte in memory, one that starts past it. -/
theorem witness_NativeTransmit :
    (Ready (stacked [0, 60, 0]) 0 ∧
      ((stacked [0, 60, 0]).thread 0).bottom.toNat + 3 ≤ ((stacked [0, 60, 0]).thread 0).sp.toNat ∧
      ((stacked [0, 60, 0]).thread 0).sp.toNat + 4 ≤ ((stacked [0, 60, 0]).thread 0).top.toNat ∧
      ((stacked [0, 60, 0]).opB 0 16).toNat + 1 + ((stacked [0, 60, 0]).byteAt 60).toNat ≤ 64) ∧
    (let s := (stacked [0, 63, 0]).writeBytes 63 [1];
      (s.opB 0 16).toNat + 1 ≤ 64 ∧ 64 < (s.opB 0 16).toNat + 1 + (s.byteAt 63).toNat) ∧
    64 < ((stacked [0, 64, 0]).opB 0 16).toNat + 1 := by decide

/-- A frame that the ring takes, and one it rejects. -/
theorem witness_NativeTransmit_ring :
    (enqueue [0x7E, 0x7E] (base 0 [])).isSome = true ∧
    enqueue [0x7E, 0x7E] { base 0 [] with txCount := 15, txActive := true } = none := by decide

theorem witness_EcallFaults :
    ((base 0 []).cur? = some 0 ∧ 4 ≤ (4 : Word).toNat) ∧
    (∀ need ∈ [1, 3, 4], ((spAt (15 + need) 0).thread 0).sp.toNat <
      ((spAt (15 + need) 0).thread 0).bottom.toNat + need) ∧
    ((spAt 37 0).thread 0).top.toNat < ((spAt 37 0).thread 0).sp.toNat + 4 := by decide

theorem witness_SyncCall :
    (Ready (spAt 19 0) 0 ∧ ((spAt 19 0).thread 0).sp.toNat < ((spAt 19 0).thread 0).bottom.toNat + 4) ∧
    (Ready (spAt 20 8) 0 ∧ ((spAt 20 8).thread 0).bottom.toNat + 4 ≤ ((spAt 20 8).thread 0).sp.toNat ∧
      (spAt 20 8).binFree = [0, 1] ∧ (spAt 20 8).actStack.length ≠ (spAt 20 8).params.maxActDepth) ∧
    Ready { spAt 20 8 with binFree := [] } 0 ∧
    (Ready { spAt 20 8 with actStack := (spAt 20 8).actStack ++ (spAt 20 8).actStack } 0 ∧
      ((spAt 20 8).actStack ++ (spAt 20 8).actStack).length = (spAt 20 8).params.maxActDepth) := by decide

theorem witness_SyncWindow : State.Alive { base 0 [] with syncWait := true } ∧ (base 0 []).Alive ∧
    (base 0 []).syncWait = false ∧ (base 0 []).inputs = [] := by decide

theorem witness_SyncThenReturn : Ready (spAt 20 8) 0 ∧ (spAt 20 8).Alive ∧
    ((spAt 20 8).thread 0).bottom.toNat + 4 ≤ ((spAt 20 8).thread 0).sp.toNat ∧
    (spAt 20 8).binFree = [0, 1] ∧ (spAt 20 8).actStack.length ≠ (spAt 20 8).params.maxActDepth ∧
    (spAt 20 8).syncWait = false := by decide

/-- Thirteen bytes; fourteen with argument sizes 0, 1 (one byte too many), 8 and 9 (over `BIN_CAP`); twenty-two
with eight arguments; no bin. -/
theorem witness_AsyncCall :
    (Ready (spAt 29 0) 0 ∧ ((spAt 29 0).thread 0).sp.toNat < ((spAt 29 0).thread 0).bottom.toNat + 14) ∧
    (Ready (spAt 30 0) 0 ∧ ((spAt 30 0).thread 0).bottom.toNat + 14 + ((spAt 30 0).valueAt 16 28).toNat ≤
      ((spAt 30 0).thread 0).sp.toNat) ∧
    (((spAt 30 1).valueAt 16 28).toNat ≤ (spAt 30 1).params.binCap ∧
      ((spAt 30 1).thread 0).sp.toNat <
        ((spAt 30 1).thread 0).bottom.toNat + 14 + ((spAt 30 1).valueAt 16 28).toNat) ∧
    (spAt 30 9).params.binCap < ((spAt 30 9).valueAt 16 28).toNat ∧
    (((spAt 38 8).valueAt 16 36).toNat ≤ (spAt 38 8).params.binCap ∧
      ((spAt 38 8).thread 0).bottom.toNat + 14 + ((spAt 38 8).valueAt 16 36).toNat ≤
        ((spAt 38 8).thread 0).sp.toNat ∧ (spAt 38 8).binFree = [0, 1] ∧ 0 < (spAt 38 8).bins.length) ∧
    Ready { spAt 30 0 with binFree := [] } 0 := by decide

/-- No such bin, a free bin, a SYNC waiting; no thread, no depth, no room, and just room. -/
theorem witness_Dispatch :
    (calling.Alive ∧ calling.params.nBins ≤ 2 ∧ (calling.bin 1).free = true) ∧
    (0 < calling.params.nBins ∧ (calling.bin 0).free = false ∧ calling.syncWait = false ∧
      calling.threadFree = [1]) ∧
    (calling.actStack ++ calling.actStack).length = calling.params.maxActDepth ∧
    calling.actStack.length ≠ calling.params.maxActDepth ∧
    ((calling.thread 1).bottom.toNat + (calling.bin 0).argSize.toNat + 4 ≤ (calling.thread 1).top.toNat ∧
      (calling.thread 1).top.toNat ≤ calling.params.memCap) ∧
    (let s := calling.setThread 1 { calling.thread 1 with top := 45 };
      (s.thread 1).top.toNat < (s.thread 1).bottom.toNat + (s.bin 0).argSize.toNat + 4) := by decide

/-- An instruction that ends at the extern boundary. -/
theorem witness_StepRunsDecoded :
    let s := setPc 0 13 (base 13 [0x60, 0x34, 0x12])
    (s.Alive ∧ s.syncWait = false ∧ s.cur? = some 0 ∧ s.imageValid = true ∧ s.inputs = [] ∧
      s.progStart.toNat ≤ (s.thread 0).pc.toNat) ∧
    decode (s.readBytes (s.thread 0).pc.toNat 3) = .ok (.jmp 0x1234, []) ∧
    (s.thread 0).pc.toNat + (encode (.jmp 0x1234)).length ≤ s.externB.toNat := by
  refine ⟨by decide, rfl, by decide⟩

/-- No image, below the section, at the boundary; a byte that begins no instruction; one that crosses. -/
theorem witness_FetchFaults :
    (∀ s ∈ [{ base 0 [] with imageValid := false }, { base 0 [] with progStart := 1 }, setPc 0 16 (base 0 [])],
      s.Alive ∧ s.syncWait = false ∧ s.cur? = some 0 ∧ s.inputs = [] ∧
      (s.imageValid = false ∨ (s.thread 0).pc.toNat < s.progStart.toNat ∨
        s.externB.toNat ≤ (s.thread 0).pc.toNat)) ∧
    (let s := setPc 0 14 (base 14 [0x60]);
      ¬ (s.imageValid = false ∨ (s.thread 0).pc.toNat < s.progStart.toNat ∨
        s.externB.toNat ≤ (s.thread 0).pc.toNat) ∧
      (encode (.jmp 0)).head? = some (s.byteAt (s.thread 0).pc.toNat) ∧
      s.externB.toNat < (s.thread 0).pc.toNat + (encode (.jmp 0)).length) := by decide

/-- The zero byte begins no instruction. -/
theorem witness_FetchFaults_illegal (i : Instr) : (encode i).head? ≠ some ((base 0 []).byteAt 0) := by
  have h : (base 0 []).byteAt 0 = 0 := by decide
  rw [h]
  cases i <;> simp [encode]

theorem witness_OnlyMissingThreadStops :
    (State.boot tiny).cur? = none ∧ (base 0 []).cur? = some 0 := by decide

/-- A state in which a fault is recorded. -/
def stopped : State := raiseFault .divideByZero (base 0 [])

theorem witness_FaultIsSticky : stopped.fault.valid = true ∧ stopped.inputs = [] ∧ Input.syncEnter ≠ .rst := by
  decide

/-- An illegal opcode at the program counter: the step faults. -/
theorem witness_FaultedStepIsUndone :
    (base 0 []).Alive ∧ look (step (base 0 [])) (fun s => s.fault.valid) = some true := by decide

/-- `base`, with the frame `bs` received so far. -/
def receiving (bs : List Byte) : State :=
  { base 0 [] with fbuf := Memory.putAll [] 0 bs, flen := bs.length, fstate := .inFrame }

theorem witness_ResetState :
    (receiving [4]).Alive ∧ (receiving [4]).fstate = .inFrame ∧ (receiving [4]).escPending = false ∧
    (receiving [4]).fovf = false ∧ 0 < (receiving [4]).flen ∧ (receiving [4]).frame = [0x04] := by decide

/-- The receiver idle and in a frame, a frame of no bytes, a full buffer, an overflow, and each kind of byte. -/
theorem witness_ReceiverTransitions :
    stopped.fault.valid = true ∧
    ((base 0 []).Alive ∧ (base 0 []).escPending = false ∧ (base 0 []).fstate = .idle) ∧
    ((receiving [1]).Alive ∧ (receiving [1]).fstate = .inFrame ∧ (receiving [1]).fovf = false ∧
      (receiving [1]).flen < (receiving [1]).params.frameCap) ∧
    (receiving (List.replicate 12 1)).params.frameCap ≤ (receiving (List.replicate 12 1)).flen ∧
    (receiving []).flen = 0 ∧
    (({ receiving [1] with escPending := true } : State).escPending = true ∧ (0x5E : Byte) = 0x7E ^^^ 0x20) ∧
    ((0x41 : Byte) ≠ 0x7D ∧ (0x41 : Byte) ≠ 0x7E) := by decide

/-- At the closing delimiter a frame may be taken, or fault. -/
theorem witness_ReceiverTransitions_frame :
    (∃ q, frameComplete (receiving [1]).frame { receiving [1] with fstate := .idle } = .ok q) ∧
    frameComplete (receiving [1, 8, 0, 8]).frame { receiving [1, 8, 0, 8] with fstate := .idle } =
      .error .loadWhileLive := ⟨⟨_, rfl⟩, rfl⟩

theorem witness_ReceptionInvertsTransmission : (base 0 []).Alive ∧ (base 0 []).fstate = .idle ∧
    (base 0 []).escPending = false ∧ (List.replicate 12 (0x7E : Byte)).length ≤ (base 0 []).params.frameCap := by
  decide

theorem witness_OversizeFrameIsDropped : (base 0 []).Alive ∧ (base 0 []).fstate = .idle ∧
    (base 0 []).escPending = false ∧ (base 0 []).params.frameCap < (List.replicate 13 (0x04 : Byte)).length := by
  decide

/-- `base` with a callback. -/
def called : State := { base 0 [] with cbValid := true, cbObj := 8, cbMethod := 0x40 }

/-- No callback; a payload one byte too long; one that just fits, with and without a bin. -/
theorem witness_ApplicationFrame :
    ((0x10 : Byte) ≠ 0x01 ∧ (0x10 : Byte) ≠ 0x02 ∧ (0x10 : Byte) ≠ 0x04) ∧
    (base 0 []).cbValid = false ∧ called.params.binCap < (List.replicate 7 (0 : Byte)).length + 2 ∧
    (called.cbValid = true ∧ (List.replicate 6 (0 : Byte)).length + 2 ≤ called.params.binCap ∧
      called.binFree = [0, 1] ∧ 0 < called.bins.length) ∧
    ({ called with binFree := [] } : State).binFree = [] := by decide

theorem witness_ReceiveTimeout : (receiving [1]).Alive ∧ (receiving [1]).params.rxTimeoutEnable = true ∧
    (receiving [1]).fstate = .inFrame ∧ (base 0 []).fstate = .idle := by decide

/-- A ring with `n` bytes queued from the last place on. -/
def queued (n : Nat) (active : Bool) : State :=
  { base 0 [] with
    ring := Memory.putAll [] 0 (List.replicate 16 0x41)
    txHead := 15
    txCount := n
    txActive := active }

/-- A sequence that just fits behind ten bytes and one that does not; an idle transmitter. -/
theorem witness_EnqueueIsWhole :
    ((queued 10 true).txHead < (queued 10 true).params.txringCap ∧ List.replicate 6 (1 : Byte) ≠ []) ∧
    ((queued 10 true).txCount + (List.replicate 6 (1 : Byte)).length ≤ (queued 10 true).params.txringCap ∧
      (queued 10 true).txActive = true) ∧
    (queued 10 true).params.txringCap < (queued 10 true).txCount + (List.replicate 7 (1 : Byte)).length ∧
    (queued 0 false).txActive = false := by decide

theorem witness_TransmitComplete :
    ((queued 2 true).txHead < (queued 2 true).params.txringCap ∧ (queued 2 true).Alive ∧
      (queued 2 true).txActive = true ∧ (queued 2 true).txQueue = [0x41, 0x41]) ∧
    ((queued 0 true).txActive = true ∧ (queued 0 true).txQueue = []) ∧ (queued 0 false).txActive = false := by decide

theorem witness_BadSegmentIsDropped :
    (([0, 0] : List Byte).length < 3) ∧ (1 : Byte) ≠ checksum (slices 2 (0 : Word) ++ []) := by decide

/-- V-S2: the continuation of scenario B, its last bit flipped. -/
theorem witness_ChecksumDetectsBitFlips :
    segmentOk (0x02 :: [0x06, 0x00, 0x02, 0x00, 0x04, 0x00, 0x0C]) = true ∧
    6 < ([0x06, 0x00, 0x02, 0x00, 0x04, 0x00, 0x0C] : List Byte).length ∧ 7 < 8 := by decide

/-- Totals at and over the capacity; data as long as the total, longer and shorter; a live block and one that is
quiescent. -/
theorem witness_InitSegment :
    ((base 0 []).params.memCap < (65 : Word).toNat ∧ (64 : Word).toNat ≤ (base 0 []).params.memCap) ∧
    ((2 : Word).toNat < ([1, 2, 3] : List Byte).length ∧ ([1, 2, 3] : List Byte).length ≤ (3 : Word).toNat ∧
      ([1, 2, 3] : List Byte).length < (4 : Word).toNat) ∧
    ¬ Quiescent (base 0 []) ∧ Quiescent (State.boot tiny) := by decide

/-- A transfer with six bytes of twenty confirmed (V-K8 and V-S6): a gap, a duplicate, an overrun, a segment that
extends it, and one that completes it. -/
theorem witness_ContinuationSegment :
    let s := { State.boot tiny with confirmedReceived := 6, totalLen := 20 }
    s.confirmedReceived.toNat < (7 : Word).toNat ∧
    ((4 : Word).toNat ≤ s.confirmedReceived.toNat ∧ (4 : Word).toNat + 2 ≤ s.confirmedReceived.toNat ∧
      s.confirmedReceived.toNat < (4 : Word).toNat + 3 ∧ (4 : Word).toNat + 3 < s.totalLen.toNat) ∧
    (6 : Word).toNat + 14 = s.totalLen.toNat ∧ s.totalLen.toNat < (6 : Word).toNat + 15 := by decide

/-- An instruction that answers a next state and an event that is neither `Rst` nor `RxByte`. -/
theorem witness_ConfirmedNeverDecreases :
    look (exec (.jmp 0) (base 0 [])) (fun s => s.confirmedReceived) = some 24 ∧
    (Input.txComplete ≠ .rst ∧ ∀ b, Input.txComplete ≠ .rxByte b) := ⟨by decide, by decide, fun b => by simp⟩

/-- A byte that closes no frame, in a frame and idle; one that closes an application frame, which is no init
segment; one that closes a continuation segment. -/
theorem witness_ConfirmedNeverDecreases_rxByte :
    (∀ f, ¬ ClosesFrame (receiving [4]) 0x41 f) ∧ (∀ f, ¬ ClosesFrame (base 0 []) 0x7E f) ∧
    (ClosesFrame (receiving [5]) 0x7E [5] ∧ ¬ AcceptedInit (receiving [5]) [5]) ∧
    ClosesFrame (receiving [2, 0, 0, 0]) 0x7E [2, 0, 0, 0] :=
  ⟨fun _ h => absurd h.2.2.1 (by decide), fun _ h => absurd h.2.2.2.1 (by decide),
    ⟨by unfold ClosesFrame; decide, fun ⟨total, data, h, _⟩ => by simp [segmentFrame] at h⟩,
    by unfold ClosesFrame; decide⟩

/-- An init segment (V-S1's shape) that is accepted and begins the transfer anew: a step that lowers the count. -/
theorem witness_ConfirmedNeverDecreases_step :
    let s := { State.boot tiny with
      confirmedReceived := 6
      totalLen := 20
      fbuf := Memory.putAll [] 0 [1, 9, 0, 7, 16]
      flen := 5
      fstate := .inFrame
      inputs := [.input (.rxByte 0x7E)] }
    ClosesFrame s 0x7E [1, 9, 0, 7, 16] ∧ AcceptedInit s [1, 9, 0, 7, 16] ∧
    look (step s) (fun q => (q.confirmedReceived, q.totalLen)) = some (1, 9) :=
  ⟨by unfold ClosesFrame; decide, ⟨9, [7], by decide, by decide, by decide, by decide⟩, by decide⟩

theorem witness_Acknowledgment : (∃ q, enqueue (wireFrame (ackBody 6)) (base 0 []) = some q) ∧
    enqueue (wireFrame (ackBody 6)) (queued 11 true) = none := ⟨⟨_, rfl⟩, by decide⟩

/-- Seven bytes, no header; a header whose entry point is at the boundary. -/
theorem witness_BadHeaderIsLinkError :
    ({ base 0 [] with totalLen := 7 } : State).totalLen.toNat < 8 ∧
    (let s := { base 0 [0, 0, 0, 0, 3, 0, 3, 0, 0x62, 0, 0] with totalLen := 11 };
      8 ≤ s.totalLen.toNat ∧
      ¬ ((s.valueAt 16 2).toNat ≤ (s.valueAt 16 6).toNat ∧ (s.valueAt 16 6).toNat ≤ s.totalLen.toNat - 8 ∧
        (s.valueAt 16 6).toNat ≤ s.params.memCap ∧ (s.valueAt 16 2).toNat ≤ (s.valueAt 16 4).toNat ∧
        (s.valueAt 16 4).toNat < (s.valueAt 16 6).toNat)) := by decide

/-- V-L8: a CALL of a native is walked and linked. -/
theorem witness_WalkLinksSection :
    (linkWalk 8 15 8 0 (base 0 [0x04, 0, 0x61, 8, 0, 0x62, 0, 0, 0x73, 0x65, 0x74, 0x4C, 0x65, 0x64, 0])).2 = true := by
  decide

/-- A byte that begins no instruction, an instruction that ends at the boundary and one that crosses it, a CALL
below the boundary and one at it. -/
theorem witness_WalkLinksSection_turn :
    (∀ i, (encode i).head? ≠ some ((base 0 []).byteAt 0)) ∧
    ((encode (.jmp 0)).head? = some ((base 0 [0x60]).byteAt 0) ∧ (base 0 [0x60]).byteAt 0 ≠ 0x61 ∧
      (base 0 [0x60]).byteAt 0 ≠ 0x63 ∧ 0 + (encode (.jmp 0)).length ≤ 3 ∧ 2 < 0 + (encode (.jmp 0)).length) ∧
    (base 0 [0x63]).byteAt 0 = 0x63 ∧
    ((base 0 [0x61, 2]).byteAt 0 = 0x61 ∧ ((base 0 [0x61, 2]).valueAt 16 1).toNat < 3 ∧
      3 ≤ ((base 0 [0x61, 3]).valueAt 16 1).toNat) :=
  ⟨witness_FetchFaults_illegal, by decide, by decide, by decide⟩

/-- Each native's name stands where it is written; it stands nowhere if its last byte lies at `n`, nor does one
with a letter too many. -/
theorem witness_WalkLinksSection_names :
    (∀ r ∈ nativeStrings, NameStands (base 3 r.1) (3 + r.1.length + 1) 3 r.1) ∧
    (∀ r ∈ nativeStrings, ¬ NameStands (base 3 [0x73, 0x65, 0x74, 0x4C, 0x65, 0x64]) 9 3 r.1) ∧
    ∀ r ∈ nativeStrings, ¬ NameStands (base 3 [0x73, 0x65, 0x74, 0x4C, 0x65, 0x64, 0x73]) 64 3 r.1 := by
  unfold NameStands
  decide

/-- R327's example: the CALL of the offset where `setLed` stands becomes `ECALL 1`, and the rest is as received. -/
theorem test_linkWalk_setLed :
    let r := linkWalk 0x20 0x27 16 0x10 (base 0x10 ([0x61, 0x20, 0x00] ++ List.replicate 13 0x20 ++
      [0x73, 0x65, 0x74, 0x4C, 0x65, 0x64, 0x00]))
    r.2 = true ∧ r.1.readBytes 0x10 16 = [0x63, 0x01, 0x00] ++ List.replicate 13 0x20 := by
  decide

/-- Log 14: with 15 bytes for four stacks, and so three bytes each, the entry call still finds room on thread 0,
which has the remainder; with no remainder it does not. -/
theorem test_dispatch_small_stacks :
    [1009, 1012].map (fun xb =>
      faultOf (inputEvent (.dispatch 0) { State.reset with
        threads := carvedThreads Params.reference xb
        bins := { Bin.reset with free := false } :: List.replicate 3 Bin.reset })) =
      [none, some (.stackOverflow, none)] := by
  decide

theorem witness_StacksAreCarved : tiny.ok = true ∧ 16 ≤ tiny.memCap ∧ 64 ≤ tiny.memCap ∧
    (carvedThreads tiny 15)[0]? = some { pc := 0, sp := 15, fp := 0, bottom := 15, top := 40, free := true } ∧
    (carvedThreads tiny 15)[1]? = some { pc := 0, sp := 40, fp := 0, bottom := 40, top := 64, free := true } := by
  decide

/-- V-L1, which links, and V-L5, whose first byte is no opcode. -/
theorem witness_LoadLinksAndPublishes :
    (∀ op ∈ [0x62, 0x07],
      let s := { base 0 [0, 0, 0, 0, 0, 0, 3, 0, op, 0, 0] with totalLen := 11 };
      8 ≤ s.totalLen.toNat ∧ (s.valueAt 16 2).toNat ≤ (s.valueAt 16 4).toNat ∧
      (s.valueAt 16 4).toNat < (s.valueAt 16 6).toNat ∧ (s.valueAt 16 6).toNat ≤ s.totalLen.toNat - 8 ∧
      (s.valueAt 16 6).toNat ≤ s.params.memCap ∧ s.binFree = [0, 1] ∧ 0 < s.bins.length) ∧
    [0x62, 0x07].map (fun op =>
      (linkWalk 3 3 3 0 (shiftImage 0 3 (base 0 [0, 0, 0, 0, 0, 0, 3, 0, op, 0, 0]))).2) = [true, false] := by
  decide

theorem witness_InstructionsLeaveTheLink :
    look (exec .addB (stacked [1, 2])) (fun s => s.fault.valid) = some false ∧ ∀ id, Instr.addB ≠ .ecall id :=
  ⟨by decide, fun id => by simp⟩

theorem witness_InstructionsLeaveOtherThreads :
    (stacked [1, 2]).cur? = some 0 ∧ look (exec .addB (stacked [1, 2])) (fun s => s.fault.valid) = some false := by
  decide

theorem base_inv : Inv (base 0 [0x60]) :=
  ⟨by decide, by decide, by unfold PoolsOk; decide, by unfold ActivationsOk; decide, by unfold WithoutImageOk; decide,
    by unfold ImageOk; decide, by decide, by decide, by decide⟩

theorem base_defined : DefinedOk (base 0 [0x60]) := by unfold DefinedOk; decide

/-- A state in which an instruction runs has the invariant, and its step answers. -/
theorem witness_InvariantIsKept :
    Inv (base 0 [0x60]) ∧ look (step (base 0 [0x60])) (fun s => s.fault.valid) = some false :=
  ⟨base_inv, by decide⟩

theorem witness_DefinednessIsKept : Inv (base 0 [0x60]) ∧ DefinedOk (base 0 [0x60]) ∧
    look (step (base 0 [0x60])) (fun s => s.fault.valid) = some false :=
  ⟨base_inv, base_defined, by decide⟩

end Sys2Proof.Tests
end

/-! PROOF. The named accesses of memory: bound test, little-endian value, bytes stored and frame (R72, R73). -/

namespace Sys2Proof.Machine

/-! ## The little-endian value of the bytes at an address -/

@[simp] theorem leNat_readBytes_zero (s : State) (a : Nat) : leNat (s.readBytes a 0) = 0 := rfl

/-- The byte at the lowest address is the least significant. -/
@[simp] theorem leNat_readBytes_succ (s : State) (a k : Nat) :
    leNat (s.readBytes a (k + 1)) = (s.byteAt a).toNat + 256 * leNat (s.readBytes (a + 1) k) := rfl

/-- A width of whole bytes holds the value of its bytes without loss (R74). -/
theorem toNat_valueAt (s : State) (n a : Nat) (h : n % 8 = 0) :
    (s.valueAt n a).toNat = leNat (s.readBytes a (n / 8)) := by
  have hpow : (256 : Nat) ^ (n / 8) = 2 ^ n := by
    rw [show (256 : Nat) = 2 ^ 8 from rfl, ← Nat.pow_mul, Nat.mul_div_cancel' (Nat.dvd_of_mod_eq_zero h)]
  rw [← leBytes_valueAt s n a h, leNat_leBytes, hpow, Nat.mod_eq_of_lt (s.valueAt n a).isLt]

/-! ## The bytes a write of slices leaves -/

theorem byteAt_writeBytes_slices (s : State) (a k : Nat) {n : Nat} (v : BitVec n) {i : Nat} (hi : i < k) :
    (s.writeBytes a (slices k v)).byteAt (a + i) = v.extractLsb' (8 * i) 8 := by
  rw [byteAt_writeBytes_inside _ _ _ _ (Nat.le_add_right a i) (by rw [slices_length]; omega)]
  simp [slices, hi]

/-! ## `MemRead` and `MemWrite` -/

/-- Outside the arena neither access has an effect or an answer; the sum `a + n / 8` does not wrap (R72, R73). -/
theorem memAccess_outside {n : Nat} {a : Addr} {s : State} (h : s.params.memCap < a.toNat + n / 8) :
    memRead n a s = .error .memOutOfBounds ∧ ∀ v : BitVec n, memWrite a v s = .error .memOutOfBounds :=
  ⟨memRead_eq_error.2 ⟨h, rfl⟩, fun _ => memWrite_eq_error.2 ⟨h, rfl⟩⟩

/-- Inside the arena a read answers the little-endian value of the bytes there (R72). -/
theorem memRead_inside {n : Nat} {a : Addr} {s : State} (hn : n % 8 = 0)
    (h : a.toNat + n / 8 ≤ s.params.memCap) :
    ∃ v, memRead n a s = .ok v ∧ v.toNat = leNat (s.readBytes a.toNat (n / 8)) :=
  ⟨s.valueAt n a.toNat, memRead_ok h, toNat_valueAt s n a.toNat hn⟩

/-- Inside the arena a write places the bytes of the value and changes nothing else (R73). -/
theorem memWrite_inside {n : Nat} {a : Addr} {s : State} (h : a.toNat + n / 8 ≤ s.params.memCap) (v : BitVec n) :
    ∃ s', memWrite a v s = .ok s' ∧ s' = { s with mem := s'.mem } ∧
      (∀ i < n / 8, s'.byteAt (a.toNat + i) = v.extractLsb' (8 * i) 8) ∧
      ∀ x, (x < a.toNat ∨ a.toNat + n / 8 ≤ x) → s'.byteAt x = s.byteAt x := by
  refine ⟨s.writeBytes a.toNat (slices (n / 8) v), memWrite_ok h, rfl, fun i hi => ?inside, fun x hx => ?outside⟩
  case inside => exact byteAt_writeBytes_slices s a.toNat (n / 8) v hi
  case outside => exact byteAt_writeBytes_outside s a.toNat _ x (by rwa [slices_length])

/-- Settles O1: each clause is the access rule at its width; a read's value is summed byte by byte. -/
theorem memoryAccess : Obligations.MemoryAccess := by
  intro s a
  refine ⟨fun n _ h => memAccess_outside h, fun h => ?byte, fun h => ?word, fun h => ?dword,
    fun n _ h v => memWrite_inside h v⟩
  case byte =>
    obtain ⟨v, hread, hv⟩ := memRead_inside (n := 8) rfl h
    exact ⟨v, hread, by simpa using hv⟩
  case word =>
    obtain ⟨v, hread, hv⟩ := memRead_inside (n := 16) rfl h
    refine ⟨v, hread, ?_⟩
    simp only [Nat.reduceDiv, leNat_readBytes_succ, leNat_readBytes_zero] at hv
    omega
  case dword =>
    obtain ⟨v, hread, hv⟩ := memRead_inside (n := 32) rfl h
    refine ⟨v, hread, ?_⟩
    simp only [Nat.reduceDiv, leNat_readBytes_succ, leNat_readBytes_zero, Nat.add_assoc, Nat.reduceAdd] at hv
    omega

end Sys2Proof.Machine

/-! PROOF. The push and pop instructions (40_stack_ops.md, R130 to R151): one rule per shape of operation, for every
width, and the instructions as its instances at 8, 16 and 32 bits. -/

namespace Sys2Proof.Machine

/-! ## Encodings -/

/-- The only slice of a byte is the byte (R73). -/
theorem slices_one_byte (v : Byte) : slices 1 v = [v] := by
  simp [slices]

/-- An opcode byte and its operand, low byte first, as slices (R102). -/
theorem cons_leBytes_eq_slices (op : Byte) (k : Nat) {n : Nat} (v : BitVec n) :
    op :: leBytes k v.toNat = op :: slices k v := by
  rw [leBytes_eq_slices]

/-! ## The end of an instruction -/

/-- Advancing moves the `pc` of a record just set (R33). -/
theorem advance_setThread {s : State} {t : Nat} (hl : t < s.threads.length) (len : Nat) (r : Thread) :
    advance t len (s.setThread t r) = s.setThread t { r with pc := r.pc + BitVec.ofNat 16 len } := by
  simp [advance, setPc, thread_setThread_same _ _ _ hl]

/-- An operation that raises a fault makes its instruction take it (R371). -/
theorem faultsWith_of_error {i : Instr} {s : State} {t : Nat} {f : FaultCode}
    {op : Nat → Except FaultCode State} (hi : exec i s = runInstr s op) (hcur : s.cur? = some t)
    (hop : op t = .error f) : FaultsWith i s t f := by
  rw [FaultsWith, hi, runInstr_of_cur hcur, hop, settle_error, raiseFault_of_cur hcur]

/-- An operation that writes bytes and one record makes its instruction complete so. -/
theorem completes_of_ok {i : Instr} {s : State} {t : Nat} {r : Thread} {lo : Nat} {bytes : List Byte}
    {op : Nat → Except FaultCode State} (hi : exec i s = runInstr s op) (hcur : s.cur? = some t)
    (hop : op t = .ok ((s.writeBytes lo bytes).setThread t r)) : Completes i s t r lo bytes := by
  apply completes_of
  rw [hi, runInstr_of_cur hcur, hop, settle_ok]

/-! ## The operations on the current thread -/

section
variable {n t len : Nat} {ea : Addr} {s : State}

/-- Push and advance, with room on the stack (R131 to R133). -/
theorem push_advance_ok (hl : t < s.threads.length) (v : BitVec n)
    (hroom : (s.thread t).sp.toNat + n / 8 ≤ (s.thread t).top.toNat)
    (htop : (s.thread t).top.toNat ≤ s.params.memCap) :
    (push t v s >>= fun s1 => .ok (advance t len s1)) =
      .ok ((s.writeBytes (s.thread t).sp.toNat (slices (n / 8) v)).setThread t { s.thread t with
        pc := (s.thread t).pc + BitVec.ofNat 16 len
        sp := (s.thread t).sp + BitVec.ofNat 16 (n / 8) }) := by
  rw [push_ok hroom htop, ok_bind, setSp, thread_writeBytes,
    advance_setThread (s := s.writeBytes _ _) (by simpa using hl)]

/-- Read, push and advance, with the source in the arena and room on the stack (R134 to R139). -/
theorem pushFrom_ok (hl : t < s.threads.length) (hn : n % 8 = 0) (hea : ea.toNat + n / 8 ≤ s.params.memCap)
    (hroom : (s.thread t).sp.toNat + n / 8 ≤ (s.thread t).top.toNat)
    (htop : (s.thread t).top.toNat ≤ s.params.memCap) :
    pushFrom n t ea len s =
      .ok ((s.writeBytes (s.thread t).sp.toNat (s.readBytes ea.toNat (n / 8))).setThread t { s.thread t with
        pc := (s.thread t).pc + BitVec.ofNat 16 len
        sp := (s.thread t).sp + BitVec.ofNat 16 (n / 8) }) := by
  rw [pushFrom, memRead_ok hea, ok_bind, push_advance_ok hl _ hroom htop, slices_valueAt s n ea.toNat hn]

/-- The read comes first, and so does its fault (R134 to R139). -/
theorem pushFrom_outside (hea : s.params.memCap < ea.toNat + n / 8) :
    pushFrom n t ea len s = .error .memOutOfBounds := by
  rw [pushFrom, (memAccess_outside hea).1, error_bind]

theorem pushFrom_overflow (hea : ea.toNat + n / 8 ≤ s.params.memCap)
    (hfull : (s.thread t).top.toNat < (s.thread t).sp.toNat + n / 8) :
    pushFrom n t ea len s = .error .stackOverflow := by
  rw [pushFrom, memRead_ok hea, ok_bind, push_overflow hfull, error_bind]

/-- Pop, store and advance: the bytes stored are those that stood on top of the stack (R143 to R148). -/
theorem popInto_ok (hl : t < s.threads.length) (hn : n % 8 = 0)
    (hbot : (s.thread t).bottom.toNat + n / 8 ≤ (s.thread t).sp.toNat)
    (hsp : (s.thread t).sp.toNat ≤ s.params.memCap) (hea : ea.toNat + n / 8 ≤ s.params.memCap) :
    popInto n t ea len s =
      .ok ((s.writeBytes ea.toNat (s.readBytes ((s.thread t).sp.toNat - n / 8) (n / 8))).setThread t
        { s.thread t with
          pc := (s.thread t).pc + BitVec.ofNat 16 len
          sp := (s.thread t).sp - BitVec.ofNat 16 (n / 8) }) := by
  have hwrite := memWrite_ok (v := s.valueAt n ((s.thread t).sp.toNat - n / 8))
    (s := setSp t ((s.thread t).sp - BitVec.ofNat 16 (n / 8)) s) hea
  rw [popInto, pop_ok hbot hsp]
  simp only [ok_bind, hwrite]
  rw [slices_valueAt s n _ hn, setSp, ← setThread_writeBytes,
    advance_setThread (s := s.writeBytes _ _) (by simpa using hl)]

/-- The pop comes first, and so does its fault (R143 to R148). -/
theorem popInto_underflow (hlow : (s.thread t).sp.toNat < (s.thread t).bottom.toNat + n / 8) :
    popInto n t ea len s = .error .stackUnderflow := by
  rw [popInto, pop_underflow hlow, error_bind]

theorem popInto_outside (hbot : (s.thread t).bottom.toNat + n / 8 ≤ (s.thread t).sp.toNat)
    (hsp : (s.thread t).sp.toNat ≤ s.params.memCap) (hea : s.params.memCap < ea.toNat + n / 8) :
    popInto n t ea len s = .error .memOutOfBounds := by
  have hwrite := (memAccess_outside (s := setSp t ((s.thread t).sp - BitVec.ofNat 16 (n / 8)) s) hea).2
    (s.valueAt n ((s.thread t).sp.toNat - n / 8))
  rw [popInto, pop_ok hbot hsp]
  simp only [ok_bind, hwrite, error_bind]

/-! ## The operations after the pop of an address -/

/-- With two bytes on the stack the address is popped, and the rest runs on the shorter stack (R37). -/
theorem pop_address_bind (f : Addr × State → Except FaultCode State)
    (hbot : (s.thread t).bottom.toNat + 2 ≤ (s.thread t).sp.toNat)
    (hsp : (s.thread t).sp.toNat ≤ s.params.memCap) :
    (pop 16 t s >>= f) =
      f (s.valueAt 16 ((s.thread t).sp.toNat - 2), setSp t ((s.thread t).sp - 2) s) := by
  simp only [pop_ok (n := 16) hbot hsp, ok_bind, Nat.reduceDiv, BitVec.ofNat_eq_ofNat]

variable {v : Addr}

/-- `pushFrom_ok` where `sp` has been moved to `v`, told of the state before. -/
theorem pushFrom_setSp_ok (hl : t < s.threads.length) (hn : n % 8 = 0)
    (hea : ea.toNat + n / 8 ≤ s.params.memCap) (hroom : v.toNat + n / 8 ≤ (s.thread t).top.toNat)
    (htop : (s.thread t).top.toNat ≤ s.params.memCap) :
    pushFrom n t ea len (setSp t v s) =
      .ok ((s.writeBytes v.toNat (s.readBytes ea.toNat (n / 8))).setThread t { s.thread t with
        pc := (s.thread t).pc + BitVec.ofNat 16 len
        sp := v + BitVec.ofNat 16 (n / 8) }) := by
  have hth := thread_setSp (v := v) hl
  rw [pushFrom_ok (s := setSp t v s) (by simpa using hl) hn hea (by rwa [hth]) (by rwa [hth]), hth, setSp,
    ← setThread_writeBytes, setThread_setThread, readBytes_setThread]

/-- `popInto_ok` where `sp` has been moved to `v`, told of the state before. -/
theorem popInto_setSp_ok (hl : t < s.threads.length) (hn : n % 8 = 0)
    (hbot : (s.thread t).bottom.toNat + n / 8 ≤ v.toNat) (hsp : v.toNat ≤ s.params.memCap)
    (hea : ea.toNat + n / 8 ≤ s.params.memCap) :
    popInto n t ea len (setSp t v s) =
      .ok ((s.writeBytes ea.toNat (s.readBytes (v.toNat - n / 8) (n / 8))).setThread t { s.thread t with
        pc := (s.thread t).pc + BitVec.ofNat 16 len
        sp := v - BitVec.ofNat 16 (n / 8) }) := by
  have hth := thread_setSp (v := v) hl
  rw [popInto_ok (s := setSp t v s) (by simpa using hl) hn (by rwa [hth]) (by rwa [hth]) hea, hth, setSp,
    ← setThread_writeBytes, setThread_setThread, readBytes_setThread]

end

/-! ## From the operations to the statements -/

section
variable {i : Instr} {n t len : Nat} {s : State}

/-- An instruction that pushes a value (R131 to R133). -/
theorem pushesBytes_of_push {v : BitVec n} (hi : exec i s = pushImm v len s) :
    PushesBytes i (BitVec.ofNat 16 len) (slices (n / 8) v) s t := by
  rw [PushesBytes, slices_length]
  refine ⟨fun ⟨hcur, _, _, htop⟩ hroom => ?completes, fun hcur hfull => ?overflow⟩
  case completes => exact completes_of_ok hi hcur (push_advance_ok (cur?_lt hcur) v hroom htop)
  case overflow => exact faultsWith_of_error hi hcur (by rw [push_overflow hfull, error_bind])

/-- An instruction that reads and pushes (R134 to R139). -/
theorem pushesFrom_of_pushFrom {ea : Nat → Addr} (hn : n % 8 = 0)
    (hi : exec i s = runInstr s fun u => pushFrom n u (ea u) len s) :
    PushesFrom i (BitVec.ofNat 16 len) (ea t) (n / 8) s t := by
  refine ⟨fun ⟨hcur, _, _, htop⟩ hea hroom => ?completes, fun hcur hea => ?outside,
    fun hcur hea hfull => ?overflow⟩
  case completes => exact completes_of_ok hi hcur (pushFrom_ok (cur?_lt hcur) hn hea hroom htop)
  case outside => exact faultsWith_of_error hi hcur (pushFrom_outside hea)
  case overflow => exact faultsWith_of_error hi hcur (pushFrom_overflow hea hfull)

/-- PUSHF reads at the slot address (R134 to R136). -/
theorem pushesFrom_of_pushSlot {off : Word} (hn : n % 8 = 0) (hi : exec i s = pushSlot n off s) :
    PushesFrom i 3 (s.slotEa t off) (n / 8) s t :=
  pushesFrom_of_pushFrom (ea := (s.slotEa · off)) hn hi

/-- PUSHA reads at its operand (R137 to R139). -/
theorem pushesFrom_of_pushAbs {addr : Addr} (hn : n % 8 = 0) (hi : exec i s = pushAbs n addr s) :
    PushesFrom i 3 addr (n / 8) s t :=
  pushesFrom_of_pushFrom (ea := fun _ => addr) hn hi

/-- An instruction that pops and stores (R143 to R148). -/
theorem popsInto_of_popInto {ea : Nat → Addr} (hn : n % 8 = 0)
    (hi : exec i s = runInstr s fun u => popInto n u (ea u) len s) :
    PopsInto i (BitVec.ofNat 16 len) (ea t) (n / 8) s t := by
  refine ⟨fun hcur hlow => ?underflow, fun ⟨hcur, _, hsp, htop⟩ hbot =>
    ⟨fun hea => ?outside, fun hea => ?completes⟩⟩
  case underflow => exact faultsWith_of_error hi hcur (popInto_underflow hlow)
  case outside => exact faultsWith_of_error hi hcur (popInto_outside hbot (hsp.trans htop) hea)
  case completes =>
    exact completes_of_ok hi hcur (popInto_ok (cur?_lt hcur) hn hbot (hsp.trans htop) hea)

/-- POPF stores at the slot address (R143 to R145). -/
theorem popsInto_of_popSlot {off : Word} (hn : n % 8 = 0) (hi : exec i s = popSlot n off s) :
    PopsInto i 3 (s.slotEa t off) (n / 8) s t :=
  popsInto_of_popInto (ea := (s.slotEa · off)) hn hi

/-- POPA stores at its operand (R146 to R148). -/
theorem popsInto_of_popAbs {addr : Addr} (hn : n % 8 = 0) (hi : exec i s = popAbs n addr s) :
    PopsInto i 3 addr (n / 8) s t :=
  popsInto_of_popInto (ea := fun _ => addr) hn hi

/-- An instruction that replaces an address by what it points at (R140 to R142): after the pop of the address it
is a read and push on the shorter stack. -/
theorem pushesThrough_of_pushDeref (hn : n % 8 = 0) (hi : exec i s = pushDeref n s) :
    PushesThrough i (n / 8) s t := by
  rintro ⟨hcur, _, hsp, htop⟩
  have hl := cur?_lt hcur
  have hth := thread_setSp (v := (s.thread t).sp - 2) hl
  refine ⟨fun hlow => ?underflow, fun hbot => ?popped⟩
  case underflow => exact faultsWith_of_error hi hcur (by rw [pop_underflow hlow, error_bind])
  case popped =>
    have hpop := pop_address_bind (fun p => pushFrom n t p.1 Format.n.length p.2) hbot (hsp.trans htop)
    have hsp2 : ((s.thread t).sp - 2).toNat = (s.thread t).sp.toNat - 2 := toNat_sub_k (k := 2) (by omega)
    refine ⟨fun hea => ?outside, fun hea hfull => ?overflow, fun hea hroom => ?completes⟩
    case outside => exact faultsWith_of_error hi hcur (hpop.trans (pushFrom_outside hea))
    case overflow =>
      refine faultsWith_of_error hi hcur (hpop.trans (pushFrom_overflow hea ?_))
      simp only [hth, hsp2]
      omega
    case completes =>
      have hrun := pushFrom_setSp_ok (len := Format.n.length) (v := (s.thread t).sp - 2) hl hn hea
        (by omega) htop
      rw [hsp2] at hrun
      exact completes_of_ok hi hcur (hpop.trans hrun)

/-- An instruction that pops an address and stores through it (R149 to R151): after the pop of the address it is a
pop and store on the shorter stack. -/
theorem popsThrough_of_popDeref (hn : n % 8 = 0) (hi : exec i s = popDeref n s) :
    PopsThrough i (n / 8) s t := by
  rintro ⟨hcur, _, hsp, htop⟩
  have hl := cur?_lt hcur
  have hth := thread_setSp (v := (s.thread t).sp - 2) hl
  by_cases haddr : (s.thread t).sp.toNat < (s.thread t).bottom.toNat + 2
  case pos =>
    refine ⟨fun _ => ?addressUnderflow, fun hbot => absurd hbot (by omega)⟩
    exact faultsWith_of_error hi hcur (by rw [pop_underflow haddr, error_bind])
  case neg =>
    have hpop := pop_address_bind (fun p => popInto n t p.1 Format.n.length p.2) (by omega) (hsp.trans htop)
    have hsp2 : ((s.thread t).sp - 2).toNat = (s.thread t).sp.toNat - 2 := toNat_sub_k (k := 2) (by omega)
    refine ⟨fun hlow => ?valueUnderflow, fun hbot => ⟨fun hea => ?outside, fun hea => ?completes⟩⟩
    case valueUnderflow =>
      refine faultsWith_of_error hi hcur (hpop.trans (popInto_underflow ?_))
      simp only [hth, hsp2]
      omega
    case outside =>
      refine faultsWith_of_error hi hcur (hpop.trans (popInto_outside ?_ ?_ hea))
      · simp only [hth, hsp2]
        omega
      · simp only [hth, hsp2, setSp_params]
        omega
    case completes =>
      have hrun := popInto_setSp_ok (len := Format.n.length) (v := (s.thread t).sp - 2) hl hn
        (by omega) (by omega) hea
      rw [hsp2, Nat.sub_sub] at hrun
      rw [BitVec.ofNat_add, ← BitVec.sub_sub]
      exact completes_of_ok hi hcur (hpop.trans hrun)

end

end Sys2Proof.Machine

/-! ## The instructions -/

namespace Sys2Proof.PushPop

open Sys2Proof.Machine

/-- Settles O5: the push rule at the three widths; a byte is its own single slice. -/
theorem pushImmediate : Obligations.PushImmediate := by
  refine ⟨fun v => ⟨rfl, fun _ _ => ?byte⟩,
    fun v => ⟨cons_leBytes_eq_slices 0x05 2 v, fun _ _ => pushesBytes_of_push rfl⟩,
    fun v => ⟨cons_leBytes_eq_slices 0x06 4 v, fun _ _ => pushesBytes_of_push rfl⟩⟩
  case byte =>
    rw [← slices_one_byte v]
    exact pushesBytes_of_push rfl

/-- Settles O6: the read-and-push rule at the slot address. -/
theorem pushSlot : Obligations.PushSlot := fun off =>
  ⟨⟨cons_leBytes_eq_slices 0x08 2 off, fun _ _ => pushesFrom_of_pushSlot (n := 8) rfl rfl⟩,
    ⟨cons_leBytes_eq_slices 0x09 2 off, fun _ _ => pushesFrom_of_pushSlot (n := 16) rfl rfl⟩,
    ⟨cons_leBytes_eq_slices 0x0A 2 off, fun _ _ => pushesFrom_of_pushSlot (n := 32) rfl rfl⟩⟩

/-- Settles O7: the read-and-push rule at the operand. -/
theorem pushAbsolute : Obligations.PushAbsolute := fun addr =>
  ⟨⟨cons_leBytes_eq_slices 0x0C 2 addr, fun _ _ => pushesFrom_of_pushAbs (n := 8) rfl rfl⟩,
    ⟨cons_leBytes_eq_slices 0x0D 2 addr, fun _ _ => pushesFrom_of_pushAbs (n := 16) rfl rfl⟩,
    ⟨cons_leBytes_eq_slices 0x0E 2 addr, fun _ _ => pushesFrom_of_pushAbs (n := 32) rfl rfl⟩⟩

/-- Settles O8: the dereferencing push rule at the three widths. -/
theorem pushDereference : Obligations.PushDereference :=
  ⟨⟨rfl, fun _ _ => pushesThrough_of_pushDeref (n := 8) rfl rfl⟩,
    ⟨rfl, fun _ _ => pushesThrough_of_pushDeref (n := 16) rfl rfl⟩,
    ⟨rfl, fun _ _ => pushesThrough_of_pushDeref (n := 32) rfl rfl⟩⟩

/-- Settles O9: the pop-and-store rule at the slot address. -/
theorem popSlot : Obligations.PopSlot := fun off =>
  ⟨⟨cons_leBytes_eq_slices 0x14 2 off, fun _ _ => popsInto_of_popSlot (n := 8) rfl rfl⟩,
    ⟨cons_leBytes_eq_slices 0x15 2 off, fun _ _ => popsInto_of_popSlot (n := 16) rfl rfl⟩,
    ⟨cons_leBytes_eq_slices 0x16 2 off, fun _ _ => popsInto_of_popSlot (n := 32) rfl rfl⟩⟩

/-- Settles O10: the pop-and-store rule at the operand. -/
theorem popAbsolute : Obligations.PopAbsolute := fun addr =>
  ⟨⟨cons_leBytes_eq_slices 0x18 2 addr, fun _ _ => popsInto_of_popAbs (n := 8) rfl rfl⟩,
    ⟨cons_leBytes_eq_slices 0x19 2 addr, fun _ _ => popsInto_of_popAbs (n := 16) rfl rfl⟩,
    ⟨cons_leBytes_eq_slices 0x1A 2 addr, fun _ _ => popsInto_of_popAbs (n := 32) rfl rfl⟩⟩

/-- Settles O11: the dereferencing pop rule at the three widths. -/
theorem popDereference : Obligations.PopDereference :=
  ⟨⟨rfl, fun _ _ => popsThrough_of_popDeref (n := 8) rfl rfl⟩,
    ⟨rfl, fun _ _ => popsThrough_of_popDeref (n := 16) rfl rfl⟩,
    ⟨rfl, fun _ _ => popsThrough_of_popDeref (n := 32) rfl rfl⟩⟩

end Sys2Proof.PushPop

/-! PROOF. The arithmetic and bitwise instructions (41_alu_ops.md, R160 to R185): one rule for the shape they share,
the operations of the ALU as operations on bit vectors, and the instructions as instances at 8, 16 and 32 bits. -/

namespace Sys2Proof.Machine

/-! ## The operations of the ALU (R161) -/

section
variable {n : Nat} (a b : BitVec n)

theorem aluAdd_eq_add : aluAdd a b = a + b := (BitVec.add_def a b).symm

theorem aluSub_eq_sub : aluSub a b = a - b := by
  rw [aluSub, Int.sub_eq_add_neg, BitVec.ofInt_add, BitVec.ofInt_neg, BitVec.ofInt_natCast, BitVec.ofInt_natCast,
    BitVec.ofNat_toNat, BitVec.ofNat_toNat, BitVec.setWidth_eq, BitVec.setWidth_eq, BitVec.sub_eq_add_neg]

theorem aluMul_eq_mul : aluMul a b = a * b := (BitVec.mul_def).symm

theorem aluAnd_eq_and : aluAnd a b = a &&& b := rfl

theorem aluOr_eq_or : aluOr a b = a ||| b := rfl

theorem aluXor_eq_xor : aluXor a b = a ^^^ b := rfl

theorem toInt_eq_zero_iff : b.toInt = 0 ↔ b = 0 := by
  rw [← BitVec.toInt_inj, BitVec.ofNat_eq_ofNat, BitVec.toInt_zero]

/-- The quotient rounded toward zero, narrowed: only the least value over `-1` wraps. -/
theorem ofInt_tdiv_eq_sdiv : BitVec.ofInt n (a.toInt.tdiv b.toInt) = a.sdiv b :=
  BitVec.eq_of_toInt_eq (by rw [BitVec.toInt_ofInt, BitVec.toInt_sdiv])

/-- The remainder takes the sign of the dividend and needs no narrowing. -/
theorem ofInt_tmod_eq_srem : BitVec.ofInt n (a.toInt - b.toInt * a.toInt.tdiv b.toInt) = a.srem b := by
  rw [← Int.tmod_def, ← BitVec.toInt_srem, BitVec.ofInt_toInt]

theorem aluDiv_zero : aluDiv a 0 = .error .divideByZero := if_pos ((toInt_eq_zero_iff 0).2 rfl)

theorem aluMod_zero : aluMod a 0 = .error .divideByZero := if_pos ((toInt_eq_zero_iff 0).2 rfl)

theorem aluDiv_of_ne_zero (hb : b ≠ 0) : aluDiv a b = .ok (a.sdiv b) := by
  rw [aluDiv, if_neg (mt (toInt_eq_zero_iff b).1 hb), ofInt_tdiv_eq_sdiv]

theorem aluMod_of_ne_zero (hb : b ≠ 0) : aluMod a b = .ok (a.srem b) := by
  rw [aluMod, if_neg (mt (toInt_eq_zero_iff b).1 hb), ofInt_tmod_eq_srem]

end

/-! ## The two operands on the stack -/

section
variable {n t : Nat} {s : State}

theorem setSp_setSp (hl : t < s.threads.length) (u v : Addr) : setSp t v (setSp t u s) = setSp t v s := by
  rw [setSp, thread_setSp hl, setSp, setThread_setThread, setSp]

/-- The two pops of R160, the upper operand first. -/
def popTwo (n t : Nat) (s : State) : Except FaultCode ((BitVec n × BitVec n) × State) := do
  let (b, s1) ← pop n t s
  let (a, s2) ← pop n t s1
  .ok ((a, b), s2)

/-- `binop` is the two pops, the function on the operands, the push of its result and the advance. -/
theorem binop_eq_popTwo (f : BitVec n → BitVec n → Except FaultCode (BitVec n)) (s : State) :
    binop f s = runInstr s fun u => popTwo n u s >>= fun p => f p.1.1 p.1.2 >>= fun r =>
      push u r p.2 >>= fun s3 => .ok (advance u Format.n.length s3) := by
  simp only [binop, popTwo, bind_assoc, ok_bind]

/-- With both operands on the stack, `popTwo` answers them and moves `sp` below them (R37). -/
theorem popTwo_ok (hl : t < s.threads.length)
    (hbot : (s.thread t).bottom.toNat + 2 * (n / 8) ≤ (s.thread t).sp.toNat)
    (hsp : (s.thread t).sp.toNat ≤ s.params.memCap) :
    popTwo n t s = .ok ((s.opA t n, s.opB t n),
      setSp t ((s.thread t).sp - BitVec.ofNat 16 (n / 8) - BitVec.ofNat 16 (n / 8)) s) := by
  have hth := thread_setSp (v := (s.thread t).sp - BitVec.ofNat 16 (n / 8)) hl
  have hsp1 := toNat_sub_k (a := (s.thread t).sp) (k := n / 8) (by omega)
  have hpop2 := pop_ok (n := n) (t := t) (s := setSp t ((s.thread t).sp - BitVec.ofNat 16 (n / 8)) s)
    (by simp only [hth, hsp1]; omega) (by simp only [hth, hsp1, setSp_params]; omega)
  rw [popTwo, pop_ok (by omega) hsp]
  simp only [ok_bind, hpop2, hth, hsp1, setSp_setSp hl]
  rw [State.opA, State.opB, two_mul, ← Nat.sub_sub, setSp, valueAt_setThread]

/-- With less on the stack one of the two pops underflows (R37). -/
theorem popTwo_underflow (hl : t < s.threads.length) (hsp : (s.thread t).sp.toNat ≤ s.params.memCap)
    (hlow : (s.thread t).sp.toNat < (s.thread t).bottom.toNat + 2 * (n / 8)) :
    popTwo n t s = .error .stackUnderflow := by
  have hth := thread_setSp (v := (s.thread t).sp - BitVec.ofNat 16 (n / 8)) hl
  by_cases hfirst : (s.thread t).sp.toNat < (s.thread t).bottom.toNat + n / 8
  case pos => rw [popTwo, pop_underflow hfirst, error_bind]
  case neg =>
    have hsp1 := toNat_sub_k (a := (s.thread t).sp) (k := n / 8) (by omega)
    have hpop2 := pop_underflow (n := n) (t := t) (s := setSp t ((s.thread t).sp - BitVec.ofNat 16 (n / 8)) s)
      (by simp only [hth, hsp1]; omega)
    rw [popTwo, pop_ok (by omega) hsp]
    simp only [ok_bind, hpop2, error_bind]

/-- A push where `sp` has been moved to `v`, told of the state before. -/
theorem push_advance_setSp_ok {len : Nat} {v : Addr} (hl : t < s.threads.length) (r : BitVec n)
    (hroom : v.toNat + n / 8 ≤ (s.thread t).top.toNat) (htop : (s.thread t).top.toNat ≤ s.params.memCap) :
    (push t r (setSp t v s) >>= fun s3 => .ok (advance t len s3)) =
      .ok ((s.writeBytes v.toNat (slices (n / 8) r)).setThread t { s.thread t with
        pc := (s.thread t).pc + BitVec.ofNat 16 len
        sp := v + BitVec.ofNat 16 (n / 8) }) := by
  have hth := thread_setSp (v := v) hl
  rw [push_advance_ok (s := setSp t v s) (by simpa using hl) r (by rwa [hth]) (by rwa [hth]), hth, setSp,
    ← setThread_writeBytes, setThread_setThread]

end

/-! ## From the shared shape to the statements -/

section
variable {i : Instr} {n t : Nat} {s : State} {f : BitVec n → BitVec n → Except FaultCode (BitVec n)}

/-- Less than two operands: `StackUnderflow`, whatever the function (R160). -/
theorem faultsWith_of_binop_underflow (hi : exec i s = binop f s) (hready : Ready s t)
    (hlow : (s.thread t).sp.toNat < (s.thread t).bottom.toNat + 2 * (n / 8)) :
    FaultsWith i s t .stackUnderflow := by
  obtain ⟨hcur, _, hsp, htop⟩ := hready
  refine faultsWith_of_error (hi.trans (binop_eq_popTwo f s)) hcur ?_
  rw [popTwo_underflow (cur?_lt hcur) (hsp.trans htop) hlow, error_bind]

/-- A fault of the function on the operands is the instruction's (R161 b). -/
theorem faultsWith_of_binop_error {e : FaultCode} (hi : exec i s = binop f s) (hready : Ready s t)
    (hbot : (s.thread t).bottom.toNat + 2 * (n / 8) ≤ (s.thread t).sp.toNat)
    (hf : f (s.opA t n) (s.opB t n) = .error e) : FaultsWith i s t e := by
  obtain ⟨hcur, _, hsp, htop⟩ := hready
  refine faultsWith_of_error (hi.trans (binop_eq_popTwo f s)) hcur ?_
  rw [popTwo_ok (cur?_lt hcur) hbot (hsp.trans htop), ok_bind, hf, error_bind]

/-- The result of the function replaces the operands: what the pops freed is room for the push (R160). -/
theorem replaces_of_binop_ok {r : BitVec n} (hi : exec i s = binop f s) (hready : Ready s t)
    (hbot : (s.thread t).bottom.toNat + 2 * (n / 8) ≤ (s.thread t).sp.toNat)
    (hf : f (s.opA t n) (s.opB t n) = .ok r) : Replaces i r s t := by
  obtain ⟨hcur, _, hsp, htop⟩ := hready
  have hl := cur?_lt hcur
  have hlow : ((s.thread t).sp - BitVec.ofNat 16 (n / 8) - BitVec.ofNat 16 (n / 8)).toNat =
      (s.thread t).sp.toNat - 2 * (n / 8) := by
    have hsp1 := toNat_sub_k (a := (s.thread t).sp) (k := n / 8) (by omega)
    rw [toNat_sub_k (by omega), hsp1]
    omega
  have hpush := push_advance_setSp_ok (len := Format.n.length) hl r
    (v := (s.thread t).sp - BitVec.ofNat 16 (n / 8) - BitVec.ofNat 16 (n / 8)) (by omega) htop
  rw [hlow, BitVec.sub_add_cancel] at hpush
  refine completes_of_ok (hi.trans (binop_eq_popTwo f s)) hcur ?_
  rw [popTwo_ok hl hbot (hsp.trans htop), ok_bind, hf, ok_bind]
  exact hpush

/-- An instruction whose function on the operands is total (R160). -/
theorem replacesBy_of_binop {op : Byte} {alu g : BitVec n → BitVec n → BitVec n} (henc : encode i = [op])
    (hi : ∀ s, exec i s = binop (fun a b => .ok (alu a b)) s) (halu : ∀ a b, alu a b = g a b) :
    ReplacesBy i op n g :=
  ⟨henc, fun s _ hready => ⟨fun hlow => faultsWith_of_binop_underflow (hi s) hready hlow,
    fun hbot => replaces_of_binop_ok (hi s) hready hbot (congrArg Except.ok (halu _ _))⟩⟩

/-- An instruction whose function on the operands faults on a zero divisor only (R161 b). -/
theorem dividesBy_of_binop {op : Byte} {g : BitVec n → BitVec n → BitVec n} (henc : encode i = [op])
    (hi : ∀ s, exec i s = binop f s) (hzero : ∀ a, f a 0 = .error .divideByZero)
    (hf : ∀ a b, b ≠ 0 → f a b = .ok (g a b)) : DividesBy i op n g :=
  ⟨henc, fun s _ hready => ⟨fun hlow => faultsWith_of_binop_underflow (hi s) hready hlow, fun hbot =>
    ⟨fun hb => faultsWith_of_binop_error (hi s) hready hbot (by rw [hb]; exact hzero _),
      fun hb => replaces_of_binop_ok (hi s) hready hbot (hf _ _ hb)⟩⟩⟩

end

end Sys2Proof.Machine

/-! ## The instructions -/

namespace Sys2Proof.Alu

open Sys2Proof.Machine

/-- Settles O12: the rule for a total function, at the sum, the difference and the product. -/
theorem wrappingArithmetic : Obligations.WrappingArithmetic :=
  ⟨⟨replacesBy_of_binop rfl (fun _ => rfl) aluAdd_eq_add,
      replacesBy_of_binop rfl (fun _ => rfl) aluAdd_eq_add,
      replacesBy_of_binop rfl (fun _ => rfl) aluAdd_eq_add⟩,
    ⟨replacesBy_of_binop rfl (fun _ => rfl) aluSub_eq_sub,
      replacesBy_of_binop rfl (fun _ => rfl) aluSub_eq_sub,
      replacesBy_of_binop rfl (fun _ => rfl) aluSub_eq_sub⟩,
    ⟨replacesBy_of_binop rfl (fun _ => rfl) aluMul_eq_mul,
      replacesBy_of_binop rfl (fun _ => rfl) aluMul_eq_mul,
      replacesBy_of_binop rfl (fun _ => rfl) aluMul_eq_mul⟩⟩

/-- Settles O13: the rule for a function that faults on a zero divisor, at the quotient and the remainder. -/
theorem signedDivision : Obligations.SignedDivision :=
  ⟨⟨dividesBy_of_binop rfl (fun _ => rfl) aluDiv_zero aluDiv_of_ne_zero,
      dividesBy_of_binop rfl (fun _ => rfl) aluDiv_zero aluDiv_of_ne_zero,
      dividesBy_of_binop rfl (fun _ => rfl) aluDiv_zero aluDiv_of_ne_zero⟩,
    ⟨dividesBy_of_binop rfl (fun _ => rfl) aluMod_zero aluMod_of_ne_zero,
      dividesBy_of_binop rfl (fun _ => rfl) aluMod_zero aluMod_of_ne_zero,
      dividesBy_of_binop rfl (fun _ => rfl) aluMod_zero aluMod_of_ne_zero⟩⟩

/-- Settles O14: the rule for a total function, at the three bitwise operations. -/
theorem bitwiseLogic : Obligations.BitwiseLogic :=
  ⟨⟨replacesBy_of_binop rfl (fun _ => rfl) aluAnd_eq_and,
      replacesBy_of_binop rfl (fun _ => rfl) aluAnd_eq_and,
      replacesBy_of_binop rfl (fun _ => rfl) aluAnd_eq_and⟩,
    ⟨replacesBy_of_binop rfl (fun _ => rfl) aluOr_eq_or,
      replacesBy_of_binop rfl (fun _ => rfl) aluOr_eq_or,
      replacesBy_of_binop rfl (fun _ => rfl) aluOr_eq_or⟩,
    ⟨replacesBy_of_binop rfl (fun _ => rfl) aluXor_eq_xor,
      replacesBy_of_binop rfl (fun _ => rfl) aluXor_eq_xor,
      replacesBy_of_binop rfl (fun _ => rfl) aluXor_eq_xor⟩⟩

end Sys2Proof.Alu

/-! PROOF. Jumps, call and return (42_control.md, R200 to R214): one rule for the twelve conditional jumps, at every
width and test, and for RET one rule per way that it can end. -/

namespace Sys2Proof.Machine

/-! ## The end of an instruction that leaves memory alone -/

section
variable {i : Instr} {t : Nat} {s s0 : State} {r : Thread} {op op' : Nat → Except FaultCode State}

theorem writeBytes_nil (s : State) (a : Nat) : s.writeBytes a [] = s := rfl

/-- An operation whose result is one record replaced in `s0`, a state with the memory and the records of `s`. -/
theorem completesAs_of_setThread (hi : exec i s = runInstr s op) (hcur : s.cur? = some t)
    (hop : op t = .ok (s0.setThread t r)) (hmem : s0.mem = s.mem) (hresets : s0.resets = s.resets)
    (hthreads : s0.threads = s.threads) : CompletesAs i s s0 t r 0 [] := by
  refine completesAs_of ?_ hmem hresets hthreads
  rw [hi, runInstr_of_cur hcur, hop, settle_ok, writeBytes_nil]

/-- An operation that replaces the current thread's record and does nothing else. -/
theorem completes_of_setThread (hi : exec i s = runInstr s op) (hcur : s.cur? = some t)
    (hop : op t = .ok (s.setThread t r)) : Completes i s t r 0 [] :=
  completesAs_of_setThread hi hcur hop rfl rfl rfl

/-- Only what an operation does on the current thread counts (R38). -/
theorem runInstr_congr (hcur : s.cur? = some t) (h : op t = op' t) : runInstr s op = runInstr s op' := by
  rw [runInstr_of_cur hcur, runInstr_of_cur hcur, h]

end

/-! ## The conditional jumps (R201 to R212) -/

section
variable {n t : Nat} {s : State}

/-- A jump moves the `pc` of a record just set (R33). -/
theorem setPc_setThread (hl : t < s.threads.length) (addr : Addr) (r : Thread) :
    setPc t addr (s.setThread t r) = s.setThread t { r with pc := addr } := by
  rw [setPc, thread_setThread_same _ _ _ hl, setThread_setThread]

theorem isGz_iff (v : BitVec n) : isGz v = true ↔ 0 < v.toInt := decide_eq_true_iff

theorem isGez_iff (v : BitVec n) : isGez v = true ↔ 0 ≤ v.toInt := decide_eq_true_iff

theorem isEz_iff (v : BitVec n) : isEz v = true ↔ v = 0 := by
  rw [isEz, decide_eq_true_iff, BitVec.ofNat_eq_ofNat, BitVec.toNat_eq, BitVec.toNat_zero]

theorem isNez_iff (v : BitVec n) : isNez v = true ↔ v ≠ 0 := by
  rw [isNez, decide_eq_true_iff, ne_eq, ne_eq, BitVec.ofNat_eq_ofNat, BitVec.toNat_eq, BitVec.toNat_zero]

/-- Either jump or advance: in both cases only the `pc` of a record just set moves (R33). -/
theorem ite_setPc_advance_setThread (hl : t < s.threads.length) (taken : Bool) (addr : Addr) (len : Nat)
    (r : Thread) :
    (if taken then setPc t addr (s.setThread t r) else advance t len (s.setThread t r)) =
      s.setThread t { r with pc := if taken then addr else r.pc + BitVec.ofNat 16 len } := by
  cases taken
  case true => exact setPc_setThread hl addr r
  case false => exact advance_setThread hl len r

/-- The operation of a conditional jump, with the value on the stack: the pop, and a `pc` that the test decides. -/
theorem pop_jump_ok (test : BitVec n → Bool) (addr : Addr) (hl : t < s.threads.length)
    (hbot : (s.thread t).bottom.toNat + n / 8 ≤ (s.thread t).sp.toNat)
    (hsp : (s.thread t).sp.toNat ≤ s.params.memCap) :
    (pop n t s >>= fun p => .ok (if test p.1 then setPc t addr p.2 else advance t Format.a16.length p.2)) =
      .ok (s.setThread t { s.thread t with
        pc := if test (s.opB t n) then addr else (s.thread t).pc + 3
        sp := (s.thread t).sp - BitVec.ofNat 16 (n / 8) }) := by
  rw [pop_ok hbot hsp, ok_bind, setSp, ite_setPc_advance_setThread hl]
  rfl

/-- A conditional jump whose test decides `p`: the value is popped in both outcomes, and only `pc` differs. -/
theorem jumpsIf_of_condJump {i : Addr → Instr} {op : Byte} {test : BitVec n → Bool} {p : BitVec n → Prop}
    (henc : ∀ addr, encode (i addr) = op :: leBytes 2 addr.toNat)
    (hi : ∀ addr s, exec (i addr) s = condJump n test addr s) (htest : ∀ v, test v = true ↔ p v) :
    JumpsIf i op n p := by
  refine fun addr => ⟨(henc addr).trans (cons_leBytes_eq_slices op 2 addr), fun s t =>
    ⟨fun hcur hlow => ?underflow, fun ⟨hcur, _, hsp, htop⟩ hbot => ?popped⟩⟩
  case underflow => exact faultsWith_of_error (hi addr s) hcur (by rw [pop_underflow hlow, error_bind])
  case popped =>
    have hrun := pop_jump_ok test addr (cur?_lt hcur) hbot (hsp.trans htop)
    refine ⟨fun hp => ?jump, fun hp => ?fallThrough⟩
    case jump =>
      rw [if_pos ((htest _).2 hp)] at hrun
      exact completes_of_setThread (hi addr s) hcur hrun
    case fallThrough =>
      rw [if_neg (mt (htest _).1 hp)] at hrun
      exact completes_of_setThread (hi addr s) hcur hrun

end

/-! ## CALL (R213) -/

section
variable {t : Nat} {s : State} {addr : Addr}

/-- One room test for the whole frame: nothing is pushed when it fails (R213). -/
theorem call_overflow (hcur : s.cur? = some t) (hfull : (s.thread t).top.toNat < (s.thread t).sp.toNat + 4) :
    FaultsWith (.call addr) s t .stackOverflow :=
  faultsWith_of_error rfl hcur (if_pos hfull)

/-- With room for it, the frame is pushed and the jump taken (R213). -/
theorem call_completes (hready : Ready s t) (hroom : (s.thread t).sp.toNat + 4 ≤ (s.thread t).top.toNat) :
    Completes (.call addr) s t { s.thread t with
        pc := addr
        sp := (s.thread t).sp + 4
        fp := (s.thread t).sp + 4 }
      (s.thread t).sp.toNat (s.frameBytes t 3) := by
  obtain ⟨hcur, _, _, htop⟩ := hready
  have hl := cur?_lt hcur
  refine completes_of_ok rfl hcur ((if_neg (Nat.not_lt.2 hroom)).trans ?_)
  rw [pushFrame_ok hl hroom htop, ok_bind, setPc_setThread (s := s.writeBytes _ _) hl]
  rfl

end

/-! ## RET (R214) -/

section
variable {t : Nat} {s : State} {n16 : Word}

/-- A word of the return frame, `k` bytes below `fp`, is in the arena. -/
theorem memRead_frame {k : Nat} (hk : 2 ≤ k) (hfp : k ≤ (s.thread t).fp.toNat)
    (hcap : (s.thread t).fp.toNat ≤ s.params.memCap) :
    memRead 16 ((s.thread t).fp - BitVec.ofNat 16 k) s = .ok (s.valueAt 16 ((s.thread t).fp.toNat - k)) := by
  have hk' := toNat_sub_k hfp
  rw [memRead_ok (by omega), hk']

/-- A frame pointer outside the stack, or without room for a frame beneath it (R214). -/
theorem ret_outside (hcur : s.cur? = some t)
    (hout : ¬ ((s.thread t).bottom.toNat + 4 ≤ (s.thread t).fp.toNat ∧
      (s.thread t).fp.toNat ≤ (s.thread t).top.toNat)) :
    FaultsWith (.ret n16) s t .stackUnderflow :=
  faultsWith_of_error rfl hcur (if_pos (by omega))

variable (hcur : s.cur? = some t) (htop : (s.thread t).top.toNat ≤ s.params.memCap)
  (hbot : (s.thread t).bottom.toNat + 4 ≤ (s.thread t).fp.toNat)
  (hfp : (s.thread t).fp.toNat ≤ (s.thread t).top.toNat)
include hcur htop hbot hfp

/-- Inside the stack the frame is read, and the sentinel decides between the two endings (R214). -/
theorem exec_ret_inside :
    exec (.ret n16) s = runInstr s fun u =>
      if s.valueAt 16 ((s.thread t).fp.toNat - 2) = 0
      then endActivation u n16 (s.valueAt 16 ((s.thread t).fp.toNat - 4)) s
      else unwind u n16 (s.valueAt 16 ((s.thread t).fp.toNat - 2))
        (s.valueAt 16 ((s.thread t).fp.toNat - 4)) s := by
  have hsaved := memRead_frame (t := t) (s := s) (k := 2) (by omega) (by omega) (by omega)
  have hret := memRead_frame (t := t) (s := s) (k := 4) (by omega) (by omega) (by omega)
  refine runInstr_congr hcur ((if_neg (by omega)).trans ?_)
  simp only [BitVec.ofNat_eq_ofNat, hsaved, hret, ok_bind]

theorem exec_ret_to_caller (hsaved : s.valueAt 16 ((s.thread t).fp.toNat - 2) ≠ 0) :
    exec (.ret n16) s = runInstr s fun u => unwind u n16 (s.valueAt 16 ((s.thread t).fp.toNat - 2))
      (s.valueAt 16 ((s.thread t).fp.toNat - 4)) s :=
  (exec_ret_inside hcur htop hbot hfp).trans (runInstr_congr hcur (if_neg hsaved))

theorem exec_ret_sentinel (hsaved : s.valueAt 16 ((s.thread t).fp.toNat - 2) = 0) :
    exec (.ret n16) s = runInstr s fun u => endActivation u n16 (s.valueAt 16 ((s.thread t).fp.toNat - 4)) s :=
  (exec_ret_inside hcur htop hbot hfp).trans (runInstr_congr hcur (if_pos hsaved))

end

section
variable {t : Nat} {s : State} {n16 : Word} {newFp ret : Addr} {a : Activation} {rest : List Activation}

/-- Too few bytes beneath the frame for the parameters to drop (R214). -/
theorem unwind_underflow (hl : t < s.threads.length) (hfp : 4 ≤ (s.thread t).fp.toNat)
    (hlow : (s.thread t).fp.toNat < (s.thread t).bottom.toNat + n16.toNat + 4) :
    unwind t n16 newFp ret s = .error .stackUnderflow := by
  rw [unwind_ok hl hfp, if_pos hlow]

theorem unwind_drops (hl : t < s.threads.length)
    (henough : (s.thread t).bottom.toNat + n16.toNat + 4 ≤ (s.thread t).fp.toNat) :
    unwind t n16 newFp ret s = .ok (s.setThread t
      { s.thread t with pc := ret, fp := newFp, sp := (s.thread t).fp - 4 - n16 }) := by
  rw [unwind_ok hl (by omega), if_neg (by omega)]

/-- A SYNC's activation ends by unwinding to the caller's `fp` kept in it; a fault of that ends nothing (R214). -/
theorem endActivation_sync (hact : s.actStack = a :: rest) (hkind : a.kind = .sync) :
    endActivation t n16 ret s = unwind t n16 a.savedFp ret s >>= fun s1 =>
      .ok (emit (.syncDone a.obj) { s1 with actStack := rest }) := by
  simp only [endActivation, hact, hkind]

/-- A root activation ends by releasing its thread (R214). -/
theorem endActivation_root (hact : s.actStack = a :: rest) (hkind : a.kind = .root) :
    endActivation t n16 ret s =
      .ok (emit (.activationDone a.thread) { releaseThread a.thread s with actStack := rest }) := by
  simp only [endActivation, hact, hkind]

/-- The current thread is the thread of whichever activation is on top (R38). -/
theorem thread_of_top (hcur : s.cur? = some t) (hact : s.actStack = a :: rest) : a.thread = t := by
  obtain ⟨a', rest', hact', hthread, _⟩ := cur?_eq_some.1 hcur
  rw [hact] at hact'
  rwa [(List.cons.inj hact').1]

end

end Sys2Proof.Machine

/-! ## The instructions -/

namespace Sys2Proof.Control

open Sys2Proof.Machine

/-- Settles O16: the target is the only thing a jump sets. -/
theorem jump : Obligations.Jump := fun addr =>
  ⟨cons_leBytes_eq_slices 0x60 2 addr, fun _ _ hcur => completes_of_setThread rfl hcur rfl⟩

/-- Settles O17: the conditional jump rule at the two signed tests. -/
theorem signedJumps : Obligations.SignedJumps :=
  ⟨⟨jumpsIf_of_condJump (fun _ => rfl) (fun _ _ => rfl) isGz_iff,
      jumpsIf_of_condJump (fun _ => rfl) (fun _ _ => rfl) isGz_iff,
      jumpsIf_of_condJump (fun _ => rfl) (fun _ _ => rfl) isGz_iff⟩,
    ⟨jumpsIf_of_condJump (fun _ => rfl) (fun _ _ => rfl) isGez_iff,
      jumpsIf_of_condJump (fun _ => rfl) (fun _ _ => rfl) isGez_iff,
      jumpsIf_of_condJump (fun _ => rfl) (fun _ _ => rfl) isGez_iff⟩⟩

/-- Settles O18: the conditional jump rule at the two tests for zero. -/
theorem zeroJumps : Obligations.ZeroJumps :=
  ⟨⟨jumpsIf_of_condJump (fun _ => rfl) (fun _ _ => rfl) isEz_iff,
      jumpsIf_of_condJump (fun _ => rfl) (fun _ _ => rfl) isEz_iff,
      jumpsIf_of_condJump (fun _ => rfl) (fun _ _ => rfl) isEz_iff⟩,
    ⟨jumpsIf_of_condJump (fun _ => rfl) (fun _ _ => rfl) isNez_iff,
      jumpsIf_of_condJump (fun _ => rfl) (fun _ _ => rfl) isNez_iff,
      jumpsIf_of_condJump (fun _ => rfl) (fun _ _ => rfl) isNez_iff⟩⟩

/-- Settles O19: the whole frame or none of it. -/
theorem call : Obligations.Call := fun addr =>
  ⟨cons_leBytes_eq_slices 0x61 2 addr, fun _ _ => ⟨call_overflow, call_completes⟩⟩

/-- Settles O20: by the place of `fp`, then the sentinel, then the kind of the activation that it ends. -/
theorem return_ : Obligations.Return := by
  refine fun n16 => ⟨cons_leBytes_eq_slices 0x62 2 n16, fun s t hcur htop =>
    ⟨ret_outside hcur, fun ⟨hbot, hfp⟩ hsaved => ?caller, fun ⟨hbot, hfp⟩ hsaved a rest hact => ?sentinel⟩⟩
  case caller =>
    have hexec := exec_ret_to_caller (n16 := n16) hcur htop hbot hfp hsaved
    exact ⟨fun hlow => faultsWith_of_error hexec hcur (unwind_underflow (cur?_lt hcur) (by omega) hlow),
      fun henough => completes_of_setThread hexec hcur (unwind_drops (cur?_lt hcur) henough)⟩
  case sentinel =>
    have hexec := exec_ret_sentinel (n16 := n16) hcur htop hbot hfp hsaved
    refine ⟨fun hkind hlow => ?syncUnderflow, fun hkind henough => ?syncDone, fun hkind => ?rootDone⟩
    case syncUnderflow =>
      refine faultsWith_of_error hexec hcur ?_
      rw [endActivation_sync hact hkind, unwind_underflow (cur?_lt hcur) (by omega) hlow, error_bind]
    case syncDone =>
      refine completesAs_of_setThread hexec hcur ?_ rfl rfl rfl
      rw [endActivation_sync hact hkind, unwind_drops (cur?_lt hcur) henough, ok_bind]
      rfl
    case rootDone =>
      refine completesAs_of_setThread hexec hcur ?_ rfl rfl rfl
      rw [endActivation_root hact hkind, thread_of_top hcur hact]
      rfl

end Sys2Proof.Control

/-! PROOF. External, synchronous and asynchronous calls and `Dispatch` (43_calls.md, R230 to R244): the frame around
a native, the pops of SYNC and ASYNC, and one rule per way that `Dispatch` can end. -/

namespace Sys2Proof.Machine

/-! ## Values and bytes in memory -/

section
variable {s : State} {t : Nat}

/-- A value is known from the bytes in memory (R74). -/
theorem valueAt_of_readBytes {n a : Nat} {v : BitVec n} (hn : n % 8 = 0)
    (h : s.readBytes a (n / 8) = slices (n / 8) v) : s.valueAt n a = v := by
  have hread : (s.writeBytes a (slices (n / 8) v)).readBytes a (n / 8) = slices (n / 8) v := by
    simpa using readBytes_writeBytes s a (slices (n / 8) v)
  rw [State.valueAt, h, ← hread, ← leBytes_eq_slices]
  exact valueAt_writeBytes s a v hn

theorem valueAt_byte (s : State) (a : Nat) : s.valueAt 8 a = s.byteAt a := by
  simp [State.valueAt]

/-- A value outside a write reads as before it. -/
theorem valueAt_writeBytes_outside {n a x : Nat} {bs : List Byte} (h : x + n / 8 ≤ a ∨ a + bs.length ≤ x) :
    (s.writeBytes a bs).valueAt n x = s.valueAt n x := by
  rw [State.valueAt, readBytes_writeBytes_outside _ _ _ _ _ h, State.valueAt]

@[simp] theorem frameBytes_length (s : State) (t : Nat) (len : Word) : (s.frameBytes t len).length = 4 := by
  simp [State.frameBytes]

/-- The two words of a return frame, read back from its bytes (R35). -/
theorem valueAt_of_frame {s' : State} {a : Nat} {len : Word} (h : s'.readBytes a 4 = s.frameBytes t len) :
    s'.valueAt 16 a = (s.thread t).pc + len ∧ s'.valueAt 16 (a + 2) = (s.thread t).fp := by
  rw [show 4 = 2 + 2 from rfl, readBytes_add] at h
  obtain ⟨hret, hfp⟩ := List.append_inj h (by simp)
  exact ⟨valueAt_of_readBytes rfl hret, valueAt_of_readBytes rfl hfp⟩

/-- An operation whose result differs from `s0` in memory and records only, and moves these as said. -/
theorem completesAs_of_moves {i : Instr} {s0 s' : State} {r : Thread} {lo : Nat} {bytes : List Byte}
    {op : Nat → Except FaultCode State} (hi : exec i s = runInstr s op) (hcur : s.cur? = some t)
    (hop : op t = .ok s') (hframe : s' = { s0 with mem := s'.mem, threads := s'.threads })
    (hmoves : Moves s s' t r lo bytes) : CompletesAs i s s0 t r lo bytes :=
  ⟨s', by rw [hi, runInstr_of_cur hcur, hop, settle_ok], hframe, hmoves⟩

/-- An operation that writes bytes and one record of `s0`, a state with the memory and the records of `s`. -/
theorem completesAs_of_ok {i : Instr} {s0 : State} {r : Thread} {lo : Nat} {bytes : List Byte}
    {op : Nat → Except FaultCode State} (hi : exec i s = runInstr s op) (hcur : s.cur? = some t)
    (hop : op t = .ok ((s0.writeBytes lo bytes).setThread t r)) (hmem : s0.mem = s.mem)
    (hresets : s0.resets = s.resets) (hthreads : s0.threads = s.threads) : CompletesAs i s s0 t r lo bytes :=
  completesAs_of (by rw [hi, runInstr_of_cur hcur, hop, settle_ok]) hmem hresets hthreads

end

/-! ## The frame around a native (R230) -/

section
variable {s : State} {t : Nat} {id : Word} {nat : Native}

/-- The state in which a native runs: the return frame pushed and `fp` above it (R230). -/
def State.entered (s : State) (t : Nat) : State :=
  (s.writeBytes (s.thread t).sp.toNat (s.frameBytes t 3)).setThread t
    { s.thread t with sp := (s.thread t).sp + 4, fp := (s.thread t).sp + 4 }

/-- The return of a native: the frame below `fp` and `drops` bytes of parameters leave the stack (R230). -/
def leaveNative (t : Nat) (fp : Addr) (drops : Nat) (s : State) : Except FaultCode State := do
  let savedFp ← memRead 16 (fp - 2) s
  let ret ← memRead 16 (fp - 4) s
  .ok (setPc t ret (setFp t savedFp (setSp t (fp - 4 - BitVec.ofNat 16 drops) s)))

theorem entered_eq (s : State) (t : Nat) :
    s.entered t = { s with mem := (s.entered t).mem, threads := (s.entered t).threads } := rfl

theorem entered_threads (s : State) (t : Nat) : (s.entered t).threads = s.threads.set t
    { s.thread t with sp := (s.thread t).sp + 4, fp := (s.thread t).sp + 4 } := rfl

theorem thread_entered (hl : t < s.threads.length) : (s.entered t).thread t =
    { s.thread t with sp := (s.thread t).sp + 4, fp := (s.thread t).sp + 4 } :=
  thread_setThread_same (s.writeBytes _ _) t _ hl

/-- The frame stands at the old stack pointer. -/
theorem readBytes_entered_frame (s : State) (t : Nat) :
    (s.entered t).readBytes (s.thread t).sp.toNat 4 = s.frameBytes t 3 :=
  readBytes_writeBytes s (s.thread t).sp.toNat (s.frameBytes t 3)

/-- Bytes outside the frame read as before the call. -/
theorem byteAt_entered_outside {a : Nat}
    (h : a < (s.thread t).sp.toNat ∨ (s.thread t).sp.toNat + 4 ≤ a) : (s.entered t).byteAt a = s.byteAt a :=
  byteAt_writeBytes_outside s _ (s.frameBytes t 3) a (by rwa [frameBytes_length])

/-- The parameters below the frame read as before the call. -/
theorem readBytes_entered_below {a k : Nat} (h : a + k ≤ (s.thread t).sp.toNat) :
    (s.entered t).readBytes a k = s.readBytes a k :=
  readBytes_writeBytes_outside s _ (s.frameBytes t 3) a k (.inl h)

theorem valueAt_entered_below {n a : Nat} (h : a + n / 8 ≤ (s.thread t).sp.toNat) :
    (s.entered t).valueAt n a = s.valueAt n a :=
  valueAt_writeBytes_outside (s := s) (bs := s.frameBytes t 3) (.inl h)

/-- An address `k` bytes below the frame pointer of the native, which is 4 above the old stack pointer. -/
theorem toNat_native_fp_sub {sp : Addr} {k : Nat} (hlt : sp.toNat + 4 < 65536) (hk : k ≤ sp.toNat + 4) :
    (sp + 4 - BitVec.ofNat 16 k).toNat = sp.toNat + 4 - k := by
  have hadd : (sp + 4).toNat = sp.toNat + 4 := toNat_add_k (k := 4) hlt
  rw [toNat_sub_k (by omega), hadd]

/-- A read below the frame pointer of the native is in the arena when the frame is. -/
theorem memRead_native_fp_sub {e : State} {sp : Addr} {n k : Nat} (hlt : sp.toNat + 4 < 65536)
    (hcap : sp.toNat + 4 ≤ e.params.memCap) (hn : n / 8 ≤ k) (hk : k ≤ sp.toNat + 4) :
    memRead n (sp + 4 - BitVec.ofNat 16 k) e = .ok (e.valueAt n (sp.toNat + 4 - k)) := by
  have haddr := toNat_native_fp_sub hlt hk
  rw [memRead_ok (by omega), haddr]

/-- The word on top of the caller's stack, as a native reads it. -/
theorem memRead_native_opB (hlow : 2 ≤ (s.thread t).sp.toNat)
    (hroom : (s.thread t).sp.toNat + 4 ≤ (s.thread t).top.toNat)
    (htop : (s.thread t).top.toNat ≤ s.params.memCap) :
    memRead 16 ((s.thread t).sp + 4 - 6) (s.entered t) = .ok (s.opB t 16) := by
  have htopLt := (s.thread t).top.isLt
  have hcap : (s.thread t).sp.toNat + 4 ≤ (s.entered t).params.memCap := hroom.trans htop
  refine (memRead_native_fp_sub (k := 6) (by omega) hcap (by omega) (by omega)).trans ?_
  rw [valueAt_entered_below (by omega), State.opB, Nat.add_sub_add_right _ 4 2]

/-- The word beneath it. -/
theorem memRead_native_opA (hlow : 4 ≤ (s.thread t).sp.toNat)
    (hroom : (s.thread t).sp.toNat + 4 ≤ (s.thread t).top.toNat)
    (htop : (s.thread t).top.toNat ≤ s.params.memCap) :
    memRead 16 ((s.thread t).sp + 4 - 8) (s.entered t) = .ok (s.opA t 16) := by
  have htopLt := (s.thread t).top.isLt
  have hcap : (s.thread t).sp.toNat + 4 ≤ (s.entered t).params.memCap := hroom.trans htop
  refine (memRead_native_fp_sub (k := 8) (by omega) hcap (by omega) (by omega)).trans ?_
  rw [valueAt_entered_below (by omega), State.opA, Nat.add_sub_add_right _ 4 4]

/-- The return from a state with the records and the frame of the entered one: the caller's `pc` and `fp` come from
the frame (R230). -/
theorem leaveNative_entered {s2 : State} {drops : Nat} (hl : t < s.threads.length)
    (hlt : (s.thread t).sp.toNat + 4 < 65536) (hcap : (s.thread t).sp.toNat + 4 ≤ s2.params.memCap)
    (hthreads : s2.threads = (s.entered t).threads)
    (hframe : s2.readBytes (s.thread t).sp.toNat 4 = s.frameBytes t 3) :
    leaveNative t ((s.thread t).sp + 4) drops s2 = .ok (s2.setThread t { s.thread t with
      pc := (s.thread t).pc + 3
      sp := (s.thread t).sp - BitVec.ofNat 16 drops }) := by
  obtain ⟨hret, hfp⟩ := valueAt_of_frame hframe
  have hl2 : t < s2.threads.length := by rwa [hthreads, entered_threads, List.length_set]
  have hth : s2.thread t = { s.thread t with sp := (s.thread t).sp + 4, fp := (s.thread t).sp + 4 } := by
    rw [State.thread, hthreads]
    exact thread_entered hl
  have hread2 : memRead 16 ((s.thread t).sp + 4 - 2) s2 = .ok (s.thread t).fp :=
    hfp ▸ memRead_native_fp_sub (k := 2) hlt hcap (by omega) (by omega)
  have hread4 : memRead 16 ((s.thread t).sp + 4 - 4) s2 = .ok ((s.thread t).pc + 3) :=
    hret ▸ memRead_native_fp_sub (k := 4) hlt hcap (by omega) (by omega)
  rw [leaveNative, hread2, ok_bind, hread4, ok_bind, BitVec.add_sub_cancel]
  simp only [setSp, setFp, hth, thread_setThread_same _ _ _ hl2, setThread_setThread, setPc_setThread hl2]

section
variable (hready : Ready s t) (hnat : nativeOf id.toNat = some nat)
  (hneed : (s.thread t).bottom.toNat + nat.needs ≤ (s.thread t).sp.toNat)
  (hroom : (s.thread t).sp.toNat + 4 ≤ (s.thread t).top.toNat)
include hready hnat hneed hroom

/-- With the parameters and room for the frame, ECALL is the native between entry and return (R230). -/
theorem exec_ecall_entered : exec (.ecall id) s = runInstr s fun u =>
    runNative nat ((s.thread t).sp + 4) (s.entered t) >>= leaveNative u ((s.thread t).sp + 4) nat.drops := by
  obtain ⟨hcur, _, _, htop⟩ := hready
  have hl := cur?_lt hcur
  have hentered : pushFrame t ((s.thread t).pc + BitVec.ofNat 16 Format.u16.length) (s.thread t).fp s =
      .ok (s.entered t) := pushFrame_ok hl hroom htop
  have hfp : ((s.entered t).thread t).fp = (s.thread t).sp + 4 := congrArg Thread.fp (thread_entered hl)
  refine runInstr_congr hcur ?_
  simp only [hnat, if_neg (Nat.not_lt.2 hneed), if_neg (Nat.not_lt.2 hroom), hentered, ok_bind, hfp]
  rfl

/-- A fault of the native is the ECALL's: the frame is undone with the rest (R371). -/
theorem ecall_faults {f : FaultCode}
    (hrun : runNative nat ((s.thread t).sp + 4) (s.entered t) = .error f) : FaultsWith (.ecall id) s t f :=
  faultsWith_of_error (exec_ecall_entered hready hnat hneed hroom) hready.1 (by rw [hrun, error_bind])

/-- A native that keeps the frame and the records returns to the caller, with its parameters dropped (R230). -/
theorem ecall_completes {s0 s2 : State} {lo : Nat} {bytes : List Byte}
    (hrun : runNative nat ((s.thread t).sp + 4) (s.entered t) = .ok s2)
    (hkept : s2 = { s0 with mem := s2.mem, threads := (s.entered t).threads })
    (hparams : s0.params = s.params)
    (hframe : s2.readBytes (s.thread t).sp.toNat 4 = s.frameBytes t 3)
    (hbytes : s2.readBytes lo bytes.length = bytes)
    (hothers : ∀ a, (a < lo ∨ lo + bytes.length ≤ a) → s2.byteAt a = s.byteAt a) :
    CompletesAs (.ecall id) s s0 t { s.thread t with
        pc := (s.thread t).pc + 3
        sp := (s.thread t).sp - BitVec.ofNat 16 nat.drops } lo bytes := by
  have hexec := exec_ecall_entered hready hnat hneed hroom
  obtain ⟨hcur, _, _, htop⟩ := hready
  have htopLt := (s.thread t).top.isLt
  have hthreads : s2.threads = (s.entered t).threads := by rw [hkept]
  have hcap : (s.thread t).sp.toNat + 4 ≤ s2.params.memCap := by
    rw [show s2.params = s.params by rw [hkept, ← hparams]]
    omega
  have hleave := leaveNative_entered (drops := nat.drops) (cur?_lt hcur) (by omega) hcap hthreads hframe
  refine completesAs_of_moves hexec hcur (s' := s2.setThread t _) (by rw [hrun, ok_bind, hleave]) ?frame
    ⟨?record, hbytes, hothers⟩
  case frame =>
    rw [hkept]
    rfl
  case record => rw [setThread_threads, hthreads, entered_threads, List.set_set]

end

end

/-! ## Native 2 (R234) -/

section
variable {s : State} {t : Nat}

/-- The two words below the frame become the callback. -/
theorem nativeRegisterCallback_entered (hneed : 4 ≤ (s.thread t).sp.toNat)
    (hroom : (s.thread t).sp.toNat + 4 ≤ (s.thread t).top.toNat)
    (htop : (s.thread t).top.toNat ≤ s.params.memCap) :
    nativeRegisterCallback ((s.thread t).sp + 4) (s.entered t) =
      .ok { s.entered t with cbObj := s.opB t 16, cbMethod := s.opA t 16, cbValid := true } := by
  rw [nativeRegisterCallback, memRead_native_opA hneed hroom htop, ok_bind,
    memRead_native_opB (by omega) hroom htop, ok_bind]

end

/-! ## Native 3 (R235) -/

section
variable {s q : State} {t : Nat}

/-- Memory and thread records play no part in the transmit ring (R352). -/
theorem enqueue_with_mem_threads (x : List Byte) (s : State) (m : Memory) (ts : List Thread) :
    enqueue x { s with mem := m, threads := ts } =
      (enqueue x s).map fun q => { q with mem := m, threads := ts } := by
  unfold enqueue
  split
  · rfl
  · simp only
    split <;> rfl

/-- The frame that transmit-buffer sends: the bytes counted by the length byte at the address popped, as they
stand once the return frame is pushed, escaped and between delimiters (R235). -/
def State.wire (s : State) (t : Nat) : List Byte :=
  wireFrame ((s.entered t).readBytes ((s.opB t 16).toNat + 1) ((s.entered t).byteAt (s.opB t 16).toNat).toNat)

/-- The entered state with the result byte `v` below the two bytes of the address (R235). -/
def State.answered (s : State) (t : Nat) (v : Byte) : State :=
  (s.entered t).writeBytes ((s.thread t).sp.toNat - 3) [v]

theorem readBytes_answered_above {a k : Nat} {v : Byte} (h : (s.thread t).sp.toNat - 3 + 1 ≤ a) :
    (s.answered t v).readBytes a k = (s.entered t).readBytes a k :=
  readBytes_writeBytes_outside _ _ [v] a k (.inr h)

theorem byteAt_answered_outside {a : Nat} {v : Byte} (hlow : 3 ≤ (s.thread t).sp.toNat)
    (h : a < (s.thread t).sp.toNat - 3 ∨ (s.thread t).sp.toNat - 3 + 7 ≤ a) :
    (s.answered t v).byteAt a = s.byteAt a := by
  rw [State.answered, byteAt_writeBytes_outside _ _ [v] a (by simp only [List.length_singleton]; omega),
    byteAt_entered_outside (by omega)]

/-- From the result byte up: the byte, the address that stays in memory, the frame. -/
theorem readBytes_answered {v : Byte} (hlow : 3 ≤ (s.thread t).sp.toNat) :
    (s.answered t v).readBytes ((s.thread t).sp.toNat - 3) (1 + (2 + 4)) =
      v :: (s.readBytes ((s.thread t).sp.toNat - 2) 2 ++ s.frameBytes t 3) := by
  have hresult : (s.answered t v).readBytes ((s.thread t).sp.toNat - 3) 1 = [v] :=
    readBytes_writeBytes (s.entered t) _ [v]
  rw [readBytes_add, readBytes_add, hresult, readBytes_answered_above (by omega), readBytes_answered_above (by omega),
    show (s.thread t).sp.toNat - 3 + 1 = (s.thread t).sp.toNat - 2 by omega, readBytes_entered_below (by omega),
    show (s.thread t).sp.toNat - 2 + 2 = (s.thread t).sp.toNat by omega, readBytes_entered_frame,
    List.singleton_append]

variable (hready : Ready s t) (hneed : (s.thread t).bottom.toNat + 3 ≤ (s.thread t).sp.toNat)
  (hroom : (s.thread t).sp.toNat + 4 ≤ (s.thread t).top.toNat)
include hready hneed hroom

/-- The address of the buffer is the word below the frame. -/
theorem memRead_buffer_address :
    memRead 16 ((s.thread t).sp + 4 - 6) (s.entered t) = .ok (s.opB t 16) := by
  obtain ⟨_, _, _, htop⟩ := hready
  exact memRead_native_opB (by omega) hroom htop

/-- The length byte lies past the arena (R235). -/
theorem nativeTransmit_length_outside (hout : s.params.memCap < (s.opB t 16).toNat + 1) :
    nativeTransmit ((s.thread t).sp + 4) (s.entered t) = .error .memOutOfBounds := by
  rw [nativeTransmit, memRead_buffer_address hready hneed hroom, ok_bind,
    (memAccess_outside (n := 8) (s := s.entered t) hout).1, error_bind]

/-- The data reach past the arena (R235). -/
theorem nativeTransmit_data_outside (hin : (s.opB t 16).toNat + 1 ≤ s.params.memCap)
    (hout : s.params.memCap < (s.opB t 16).toNat + 1 + ((s.entered t).byteAt (s.opB t 16).toNat).toNat) :
    nativeTransmit ((s.thread t).sp + 4) (s.entered t) = .error .memOutOfBounds := by
  rw [nativeTransmit, memRead_buffer_address hready hneed hroom, ok_bind,
    memRead_ok (n := 8) (s := s.entered t) hin, ok_bind, valueAt_byte]
  exact if_pos hout

/-- With the buffer in the arena, whether the ring takes the frame decides the result byte (R235). -/
theorem nativeTransmit_inside
    (hin : (s.opB t 16).toNat + 1 + ((s.entered t).byteAt (s.opB t 16).toNat).toNat ≤ s.params.memCap) :
    nativeTransmit ((s.thread t).sp + 4) (s.entered t) =
      (enqueue (s.wire t) (s.entered t)).elim (memWrite ((s.thread t).sp + 4 - 7) (1 : Byte) (s.entered t))
        (memWrite ((s.thread t).sp + 4 - 7) (0 : Byte)) := by
  rw [nativeTransmit, memRead_buffer_address hready hneed hroom, ok_bind,
    memRead_ok (n := 8) (s := s.entered t) (Nat.le_trans (Nat.le_add_right _ _) hin), ok_bind, valueAt_byte]
  refine (if_neg (Nat.not_lt.2 hin)).trans ?_
  rw [State.wire]
  cases enqueue _ (s.entered t) <;> rfl

/-- The result byte is written below the two bytes of the address, beneath the frame: `q` is the state without
the native's writes to memory and records. -/
theorem transmit_completes {v : Byte} (hparams : q.params = s.params) (hresets : q.resets = s.resets)
    (hrun : nativeTransmit ((s.thread t).sp + 4) (s.entered t) = memWrite ((s.thread t).sp + 4 - 7) v
      { q with mem := (s.entered t).mem, threads := (s.entered t).threads }) :
    CompletesAs (.ecall 3) s q t
      { s.thread t with pc := (s.thread t).pc + 3, sp := (s.thread t).sp - 2 } ((s.thread t).sp.toNat - 3)
      (v :: (s.readBytes ((s.thread t).sp.toNat - 2) 2 ++ s.frameBytes t 3)) := by
  have htopLt := (s.thread t).top.isLt
  have hcap : (s.thread t).top.toNat ≤ q.params.memCap := by
    obtain ⟨_, _, _, htop⟩ := hready
    rwa [hparams]
  have hlow : 3 ≤ (s.thread t).sp.toNat := by omega
  have haddr : ((s.thread t).sp + 4 - 7).toNat = (s.thread t).sp.toNat - 3 :=
    (toNat_native_fp_sub (k := 7) (by omega) (by omega)).trans (Nat.add_sub_add_right _ 4 3)
  have hwrite : memWrite ((s.thread t).sp + 4 - 7) v
      { q with mem := (s.entered t).mem, threads := (s.entered t).threads } =
      .ok { q with mem := (s.answered t v).mem, threads := (s.entered t).threads } := by
    have hin : (s.thread t).sp.toNat - 3 + 8 / 8 ≤ q.params.memCap := by omega
    rw [memWrite_ok (by rw [haddr]; exact hin), haddr, slices_one_byte]
    rfl
  have hreads := fun a k => readBytes_congr
    { q with mem := (s.answered t v).mem, threads := (s.entered t).threads } (s.answered t v) a k hresets rfl
  have hbytes := fun a => byteAt_congr
    { q with mem := (s.answered t v).mem, threads := (s.entered t).threads } (s.answered t v) a hresets rfl
  have hframe := (readBytes_answered_above (v := v) (k := 4) (by omega)).trans (readBytes_entered_frame s t)
  refine ecall_completes (id := 3) (nat := .transmit) hready rfl hneed hroom (hrun.trans hwrite) rfl hparams
    ((hreads _ _).trans hframe) ((hreads _ _).trans ?bytes) (fun a ha => ?others)
  case bytes =>
    rw [show (v :: (s.readBytes ((s.thread t).sp.toNat - 2) 2 ++ s.frameBytes t 3)).length = 1 + (2 + 4) by simp]
    exact readBytes_answered hlow
  case others =>
    simp only [List.length_cons, List.length_append, readBytes_length, frameBytes_length] at ha
    exact (hbytes a).trans (byteAt_answered_outside hlow ha)

end

/-! ## Pops in a row (R37) -/

section
variable {s : State} {t : Nat}

/-- The state with the top `k` bytes of the stack dropped. -/
def State.popped (s : State) (t k : Nat) : State := setSp t ((s.thread t).sp - BitVec.ofNat 16 k) s

theorem popped_zero (s : State) (t : Nat) : s.popped t 0 = s := by
  have hset : s.threads.set t (s.thread t) = s.threads := by
    by_cases hl : t < s.threads.length
    case pos => rw [State.thread, List.getD_eq_getElem _ _ hl, List.set_getElem_self]
    case neg => exact List.set_eq_of_length_le (Nat.not_lt.1 hl)
  have hsub : (s.thread t).sp - BitVec.ofNat 16 0 = (s.thread t).sp := BitVec.sub_zero _
  rw [State.popped, setSp, hsub]
  exact congrArg (fun ts => { s with threads := ts }) hset

variable (hl : t < s.threads.length)
include hl

theorem thread_popped (k : Nat) :
    (s.popped t k).thread t = { s.thread t with sp := (s.thread t).sp - BitVec.ofNat 16 k } := thread_setSp hl

theorem popped_popped (j k : Nat) : (s.popped t j).popped t k = s.popped t (j + k) := by
  rw [State.popped, thread_popped hl, State.popped, setSp_setSp hl, BitVec.sub_sub, ← BitVec.ofNat_add, State.popped]

/-- A pop after `k` bytes have left the stack (R37). -/
theorem pop_popped_ok {n k : Nat} (hbot : (s.thread t).bottom.toNat + (k + n / 8) ≤ (s.thread t).sp.toNat)
    (hsp : (s.thread t).sp.toNat ≤ s.params.memCap) :
    pop n t (s.popped t k) =
      .ok (s.valueAt n ((s.thread t).sp.toNat - (k + n / 8)), s.popped t (k + n / 8)) := by
  have hth := thread_popped hl k
  have hspk := toNat_sub_k (a := (s.thread t).sp) (k := k) (by omega)
  have hcap : (s.thread t).sp.toNat - k ≤ (s.popped t k).params.memCap := Nat.le_trans (Nat.sub_le _ _) hsp
  have hdrop : setSp t (((s.popped t k).thread t).sp - BitVec.ofNat 16 (n / 8)) (s.popped t k) =
      s.popped t (k + n / 8) := popped_popped hl k (n / 8)
  rw [pop_ok (by simp only [hth, hspk]; omega) (by simp only [hth, hspk]; exact hcap), hdrop, hth, hspk, Nat.sub_sub]
  rfl

/-- Pops in a row raise `StackUnderflow` when one of them finds too little: either this one, or a later one. -/
theorem pop_popped_bind_underflow {α : Type} {n k : Nat} {f : BitVec n × State → Except FaultCode α}
    (hsp : (s.thread t).sp.toNat ≤ s.params.memCap) (hk : (s.thread t).bottom.toNat + k ≤ (s.thread t).sp.toNat)
    (hlater : (s.thread t).bottom.toNat + (k + n / 8) ≤ (s.thread t).sp.toNat →
      f (s.valueAt n ((s.thread t).sp.toNat - (k + n / 8)), s.popped t (k + n / 8)) = .error .stackUnderflow) :
    (pop n t (s.popped t k) >>= f) = .error .stackUnderflow := by
  by_cases hbot : (s.thread t).bottom.toNat + (k + n / 8) ≤ (s.thread t).sp.toNat
  case pos => rw [pop_popped_ok hl hbot hsp, ok_bind, hlater hbot]
  case neg =>
    have hspk := toNat_sub_k (a := (s.thread t).sp) (k := k) (by omega)
    rw [pop_underflow (by simp only [thread_popped hl, hspk]; omega), error_bind]

/-- `pop_popped_bind_underflow` for the first of the pops. -/
theorem pop_bind_underflow {α : Type} {n : Nat} {f : BitVec n × State → Except FaultCode α}
    (hsp : (s.thread t).sp.toNat ≤ s.params.memCap) (hbot : (s.thread t).bottom.toNat ≤ (s.thread t).sp.toNat)
    (hlater : (s.thread t).bottom.toNat + n / 8 ≤ (s.thread t).sp.toNat →
      f (s.valueAt n ((s.thread t).sp.toNat - n / 8), s.popped t (n / 8)) = .error .stackUnderflow) :
    (pop n t s >>= f) = .error .stackUnderflow := by
  have hpop := pop_popped_bind_underflow (k := 0) (f := f) hl hsp hbot (by rwa [Nat.zero_add])
  rwa [popped_zero] at hpop

end

/-! ## SYNC (R240) -/

/-- Writes to bins and to thread records do not meet. -/
theorem setBin_setThread (s : State) (t : Nat) (r : Thread) (b : Nat) (r' : Bin) :
    (s.setThread t r).setBin b r' = (s.setBin b r').setThread t r := rfl

section
variable {s : State} {t b0 : Nat} {rest : List Nat}

/-- Fewer than two words on the stack (R240). -/
theorem sync_underflow (hready : Ready s t) (hlow : (s.thread t).sp.toNat < (s.thread t).bottom.toNat + 4) :
    FaultsWith .sync s t .stackUnderflow := by
  obtain ⟨hcur, hbot, hsp, htop⟩ := hready
  have hl := cur?_lt hcur
  have hcap := hsp.trans htop
  exact faultsWith_of_error rfl hcur <| pop_bind_underflow (n := 16) hl hcap hbot fun h2 =>
    pop_popped_bind_underflow (n := 16) (k := 2) hl hcap h2 fun h4 => absurd h4 (by omega)

variable (hready : Ready s t) (hbot : (s.thread t).bottom.toNat + 4 ≤ (s.thread t).sp.toNat)
include hready hbot

/-- The two pops of SYNC: the object, then the method. -/
theorem sync_pops : pop 16 t s = .ok (s.opB t 16, s.popped t 2) ∧
    pop 16 t (s.popped t 2) = .ok (s.opA t 16, s.popped t 4) := by
  obtain ⟨hcur, _, hsp, htop⟩ := hready
  exact ⟨pop_ok (n := 16) (by omega) (hsp.trans htop),
    pop_popped_ok (n := 16) (k := 2) (cur?_lt hcur) (by omega) (hsp.trans htop)⟩

/-- A bin's record set and the frame of the callee pushed where the two words stood: `sp` is back where it was. -/
theorem pushFrame_popped (ret : Word) (b : Nat) (r : Bin) :
    pushFrame t ret 0 ((s.popped t 4).setBin b r) =
      .ok (((s.setBin b r).writeBytes ((s.thread t).sp.toNat - 4) (slices 2 ret ++ [0, 0])).setThread t
        { s.thread t with fp := (s.thread t).sp }) := by
  obtain ⟨hcur, _, hsp, htop⟩ := hready
  have hl := cur?_lt hcur
  have hth : ((s.popped t 4).setBin b r).thread t = { s.thread t with sp := (s.thread t).sp - BitVec.ofNat 16 4 } :=
    thread_popped hl 4
  have hsp4 := toNat_sub_k (a := (s.thread t).sp) (k := 4) (by omega)
  have hback : (s.thread t).sp - BitVec.ofNat 16 4 + 4 = (s.thread t).sp := BitVec.sub_add_cancel _ _
  rw [pushFrame_ok (by simpa [State.popped] using hl) (by simp only [hth, hsp4]; omega) (by rw [hth]; exact htop),
    hth]
  simp only [hsp4, hback]
  rw [show slices 2 (0 : Word) = [0, 0] from rfl, State.popped, setSp, setBin_setThread, ← setThread_writeBytes,
    setThread_setThread]

/-- No bin for the call (R240). -/
theorem sync_no_bin (hbin : s.binFree = []) : FaultsWith .sync s t .binPoolExhausted := by
  obtain ⟨hobj, hmethod⟩ := sync_pops hready hbot
  have hbin4 : (s.popped t 4).binFree = [] := hbin
  refine faultsWith_of_error rfl hready.1 ?_
  simp only [hobj, hmethod, ok_bind, hbin4]

/-- No depth left for the call (R240). -/
theorem sync_too_deep (hbin : s.binFree = b0 :: rest) (hdepth : s.actStack.length = s.params.maxActDepth) :
    FaultsWith .sync s t .activationDepthExceeded := by
  obtain ⟨hobj, hmethod⟩ := sync_pops hready hbot
  have hbin4 : (s.popped t 4).binFree = b0 :: rest := hbin
  refine faultsWith_of_error rfl hready.1 ?_
  simp only [hobj, hmethod, ok_bind, hbin4]
  exact if_pos hdepth

/-- The frame takes the place of the two words popped, and the callee's activation that of the caller (R240). -/
theorem sync_completes (hbin : s.binFree = b0 :: rest) (hdepth : s.actStack.length ≠ s.params.maxActDepth) :
    CompletesAs .sync s
      { s with
        bins := s.bins.set b0 { s.bin b0 with method := s.opA t 16, argSize := 0, origin := some t }
        actStack := { kind := .sync, thread := t, savedFp := (s.thread t).fp, obj := s.opB t 16 } :: s.actStack
        syncWait := true
        outputs := s.outputs ++ [.schedSync (s.opB t 16) (s.opA t 16) t] } t
      { s.thread t with pc := s.opA t 16, fp := (s.thread t).sp }
      ((s.thread t).sp.toNat - 4) (slices 2 ((s.thread t).pc + 1) ++ [0, 0]) := by
  obtain ⟨hobj, hmethod⟩ := sync_pops hready hbot
  have hl := cur?_lt hready.1
  have hbin4 : (s.popped t 4).binFree = b0 :: rest := hbin
  have hroom : ¬ ((s.popped t 4).thread t).top.toNat < ((s.popped t 4).thread t).sp.toNat + 4 := by
    obtain ⟨_, _, hsp, _⟩ := hready
    have hsp4 := toNat_sub_k (a := (s.thread t).sp) (k := 4) (by omega)
    simp only [thread_popped hl, hsp4]
    omega
  have hframe := pushFrame_popped hready hbot ((s.thread t).pc + 1) b0
    { s.bin b0 with method := s.opA t 16, argSize := 0, origin := some t }
  refine completesAs_of_ok rfl hready.1 ?_ rfl rfl rfl
  simp only [hobj, hmethod, ok_bind, hbin4]
  refine (if_neg hdepth).trans ((if_neg hroom).trans ?_)
  refine (congrArg (· >>= _) hframe).trans ?_
  rw [ok_bind, setPc_setThread (s := (s.setBin _ _).writeBytes _ _) hl]
  rfl

end

/-! ## ASYNC (R242) -/

section
variable {s : State} {t b : Nat} {rest : List Nat}

/-- The number of argument bytes of an ASYNC: the word on top of the stack (R242). -/
def State.asyncSize (s : State) (t : Nat) : Word := s.valueAt 16 ((s.thread t).sp.toNat - 2)

/-- The argument bytes of an ASYNC, beneath its five operands (R242). -/
def State.asyncArgs (s : State) (t : Nat) : List Byte :=
  s.readBytes ((s.thread t).sp.toNat - 14 - (s.asyncSize t).toNat) (s.asyncSize t).toNat

/-- The state that ASYNC leaves, but for the thread record: bin `b` filled and the call announced (R242, R243). -/
def State.issued (s : State) (t b : Nat) (rest : List Nat) : State :=
  { s with
    bins := s.bins.set b
      { data := Memory.putAll (s.bin b).data 0 (s.asyncArgs t)
        argSize := s.asyncSize t
        method := s.valueAt 16 ((s.thread t).sp.toNat - 14)
        origin := some t
        free := false }
    binFree := rest
    outputs := s.outputs ++ [.schedAsync (s.valueAt 16 ((s.thread t).sp.toNat - 12))
      (s.valueAt 32 ((s.thread t).sp.toNat - 6)) (s.valueAt 32 ((s.thread t).sp.toNat - 10)) b] }

@[simp] theorem asyncArgs_length (s : State) (t : Nat) : (s.asyncArgs t).length = (s.asyncSize t).toNat :=
  readBytes_length s _ _

/-- The bin's first bytes are the arguments, in order (R242). -/
theorem bytes_putAll_asyncArgs (s : State) (t n : Nat) (sp : Space) (m : Memory) :
    Memory.bytes n sp (Memory.putAll m 0 (s.asyncArgs t)) 0 (s.asyncSize t).toNat = s.asyncArgs t := by
  have hread := Memory.bytes_putAll n sp m 0 (s.asyncArgs t)
  rwa [asyncArgs_length] at hread

/-- The bin's other bytes are as before. -/
theorem byteOr_putAll_asyncArgs (s : State) (t n : Nat) (sp : Space) (m : Memory) {i : Nat}
    (hi : (s.asyncSize t).toNat ≤ i) :
    Memory.byteOr n sp (Memory.putAll m 0 (s.asyncArgs t)) i = Memory.byteOr n sp m i :=
  Memory.byteOr_congr _ _ _ _ _
    (Memory.get?_putAll_outside m 0 _ i (.inr (by rwa [asyncArgs_length, Nat.zero_add])))

/-- Moving `sp` and advancing, on a record just set. -/
theorem advance_setSp_setThread (hl : t < s.threads.length) (len : Nat) (v : Addr) (r : Thread) :
    advance t len (setSp t v (s.setThread t r)) =
      s.setThread t { r with pc := r.pc + BitVec.ofNat 16 len, sp := v } := by
  rw [setSp, thread_setThread_same _ _ _ hl, setThread_setThread, advance_setThread hl]

/-- Fewer than the five operands on the stack: one of the five pops underflows (R242). -/
theorem async_operand_underflow (hready : Ready s t)
    (hlow : (s.thread t).sp.toNat < (s.thread t).bottom.toNat + 14) : FaultsWith .async s t .stackUnderflow := by
  obtain ⟨hcur, hbot, hsp, htop⟩ := hready
  have hl := cur?_lt hcur
  have hcap := hsp.trans htop
  exact faultsWith_of_error rfl hcur <| pop_bind_underflow (n := 16) hl hcap hbot fun h2 =>
    pop_popped_bind_underflow (n := 32) (k := 2) hl hcap h2 fun h6 =>
    pop_popped_bind_underflow (n := 32) (k := 6) hl hcap h6 fun h10 =>
    pop_popped_bind_underflow (n := 16) (k := 10) hl hcap h10 fun h12 =>
    pop_popped_bind_underflow (n := 16) (k := 12) hl hcap h12 fun h14 => absurd h14 (by omega)

variable (hready : Ready s t) (hbot : (s.thread t).bottom.toNat + 14 ≤ (s.thread t).sp.toNat)
include hready hbot

/-- With the five operands on the stack, ASYNC is its two tests and the issue of the call (R242, R243). -/
theorem exec_async_popped : exec .async s = runInstr s fun u =>
    if s.params.binCap < (s.asyncSize t).toNat then .error .binOverflow
    else if (s.thread t).sp.toNat < (s.thread t).bottom.toNat + 14 + (s.asyncSize t).toNat
    then .error .stackUnderflow
    else issueAsync (s.asyncArgs t) (s.valueAt 16 ((s.thread t).sp.toNat - 14)) (some u)
      (s.valueAt 16 ((s.thread t).sp.toNat - 12)) (s.valueAt 32 ((s.thread t).sp.toNat - 6))
      (s.valueAt 32 ((s.thread t).sp.toNat - 10)) (s.popped t 14) >>= fun s6 =>
        .ok (advance u Format.n.length (setSp u ((s.thread t).sp - 14 - s.asyncSize t) s6)) := by
  obtain ⟨hcur, _, hsp, htop⟩ := hready
  have hl := cur?_lt hcur
  have hcap := hsp.trans htop
  have hsize : pop 16 t s = .ok (s.asyncSize t, s.popped t 2) := pop_ok (n := 16) (by omega) hcap
  have hbaseline : pop 32 t (s.popped t 2) = .ok (_, s.popped t 6) := pop_popped_ok hl (by omega) hcap
  have hdeadline : pop 32 t (s.popped t 6) = .ok (_, s.popped t 10) := pop_popped_ok hl (by omega) hcap
  have hobj : pop 16 t (s.popped t 10) = .ok (_, s.popped t 12) := pop_popped_ok hl (by omega) hcap
  have hmethod : pop 16 t (s.popped t 12) = .ok (_, s.popped t 14) := pop_popped_ok hl (by omega) hcap
  have hsp14 : ((s.thread t).sp - BitVec.ofNat 16 14).toNat = (s.thread t).sp.toNat - 14 := toNat_sub_k (by omega)
  have htest : (s.thread t).sp.toNat - 14 < (s.thread t).bottom.toNat + (s.asyncSize t).toNat ↔
      (s.thread t).sp.toNat < (s.thread t).bottom.toNat + 14 + (s.asyncSize t).toNat := by omega
  refine runInstr_congr hcur ?_
  simp only [hsize, hbaseline, hdeadline, hobj, hmethod, ok_bind, thread_popped hl, hsp14, htest]
  rfl

/-- More argument bytes than a bin holds (R242). -/
theorem async_too_large (hsize : s.params.binCap < (s.asyncSize t).toNat) : FaultsWith .async s t .binOverflow :=
  faultsWith_of_error (exec_async_popped hready hbot) hready.1 (if_pos hsize)

variable (hsize : (s.asyncSize t).toNat ≤ s.params.binCap)
include hsize

/-- Fewer argument bytes on the stack than announced (R242). -/
theorem async_args_underflow
    (hlow : (s.thread t).sp.toNat < (s.thread t).bottom.toNat + 14 + (s.asyncSize t).toNat) :
    FaultsWith .async s t .stackUnderflow :=
  faultsWith_of_error (exec_async_popped hready hbot) hready.1 ((if_neg (Nat.not_lt.2 hsize)).trans (if_pos hlow))

variable (hargs : (s.thread t).bottom.toNat + 14 + (s.asyncSize t).toNat ≤ (s.thread t).sp.toNat)
include hargs

/-- No bin for the call (R243). -/
theorem async_no_bin (hbin : s.binFree = []) : FaultsWith .async s t .binPoolExhausted := by
  refine faultsWith_of_error (exec_async_popped hready hbot) hready.1
    ((if_neg (Nat.not_lt.2 hsize)).trans ((if_neg (Nat.not_lt.2 hargs)).trans ?_))
  rw [issueAsync_exhausted (s := s.popped t 14) hbin, error_bind]

/-- The call is issued with the first free bin, and operands and arguments leave the stack (R242, R243). -/
theorem async_completes (hbin : s.binFree = b :: rest) (hb : b < s.bins.length) :
    CompletesAs .async s (s.issued t b rest) t
      { s.thread t with pc := (s.thread t).pc + 1, sp := (s.thread t).sp - 14 - s.asyncSize t } 0 [] := by
  have hissue : issueAsync (s.asyncArgs t) (s.valueAt 16 ((s.thread t).sp.toNat - 14)) (some t)
      (s.valueAt 16 ((s.thread t).sp.toNat - 12)) (s.valueAt 32 ((s.thread t).sp.toNat - 6))
      (s.valueAt 32 ((s.thread t).sp.toNat - 10)) (s.popped t 14) =
      .ok ((s.issued t b rest).setThread t { s.thread t with sp := (s.thread t).sp - BitVec.ofNat 16 14 }) := by
    rw [issueAsync_ok (s := s.popped t 14) hbin hb, asyncArgs_length, BitVec.ofNat_toNat, BitVec.setWidth_eq]
    rfl
  refine completesAs_of_setThread (exec_async_popped hready hbot) hready.1
    ((if_neg (Nat.not_lt.2 hsize)).trans ((if_neg (Nat.not_lt.2 hargs)).trans ?_)) rfl rfl rfl
  rw [hissue, ok_bind, advance_setSp_setThread (s := s.issued t b rest) (cur?_lt hready.1)]
  rfl

end

/-! ## Dispatch (R244) -/

section
variable {s : State} {t b : Nat} {rest : List Nat}

/-- No such bin, a free bin, or a SYNC that waits: nothing happens (R244). -/
theorem dispatchBin_ignored (h : s.params.nBins ≤ b ∨ (s.bin b).free = true ∨ s.syncWait = true) :
    dispatchBin b s = .ok s := if_pos h

/-- The state with thread `t` taken from the pool (R39). -/
def State.allocated (s : State) (t : Nat) (rest : List Nat) : State :=
  ({ s with threadFree := rest }).setThread t { s.thread t with free := false }

theorem bin_allocated (s : State) (t : Nat) (rest : List Nat) (b : Nat) : (s.allocated t rest).bin b = s.bin b := rfl

theorem binBytes_allocated (s : State) (t : Nat) (rest : List Nat) (b k : Nat) :
    (s.allocated t rest).binBytes b k = s.binBytes b k := rfl

theorem thread_allocated (hl : t < s.threads.length) (rest : List Nat) :
    (s.allocated t rest).thread t = { s.thread t with free := false } :=
  thread_setThread_same { s with threadFree := rest } t _ hl

/-- The record set last is the one that stands. -/
theorem setThread_writeBytes_allocated (s : State) (t : Nat) (rest : List Nat) (lo : Nat) (bs : List Byte)
    (r : Thread) : ((s.allocated t rest).writeBytes lo bs).setThread t r =
      (State.writeBytes { s with threadFree := rest } lo bs).setThread t r := by
  rw [State.allocated, ← setThread_writeBytes, setThread_setThread]

/-- A thread whose stack has room exists as a record. -/
theorem lt_threads_length_of_top {k : Nat} (h : k < (s.thread t).top.toNat) : t < s.threads.length := by
  by_contra hl
  rw [State.thread, List.getD_eq_default _ _ (Nat.not_lt.1 hl)] at h
  exact absurd h (Nat.not_lt_zero k)

/-- The bounds of the stack of the thread taken are as before, be there such a record or not. -/
theorem thread_allocated_bounds (s : State) (t : Nat) (rest : List Nat) :
    ((s.allocated t rest).thread t).bottom = (s.thread t).bottom ∧
      ((s.allocated t rest).thread t).top = (s.thread t).top := by
  by_cases hl : t < s.threads.length
  case pos =>
    rw [thread_allocated hl]
    exact ⟨rfl, rfl⟩
  case neg =>
    have hsame : (s.allocated t rest).thread t = s.thread t :=
      congrArg (List.getD · t Thread.reset) (List.set_eq_of_length_le (Nat.not_lt.1 hl))
    rw [hsame]
    exact ⟨rfl, rfl⟩

@[simp] theorem binBytes_length (s : State) (b k : Nat) : (s.binBytes b k).length = k :=
  Memory.bytes_length _ _ _ _ _

/-- A zero word written behind bytes just written. -/
theorem memWrite_zero_behind {lo : Nat} {bs : List Byte} {a : Addr} (ha : a.toNat = lo + bs.length)
    (hcap : lo + bs.length + 2 ≤ s.params.memCap) :
    memWrite a (0 : Word) (s.writeBytes lo bs) = .ok (s.writeBytes lo (bs ++ [0, 0])) := by
  have hin : a.toNat + 16 / 8 ≤ (s.writeBytes lo bs).params.memCap := by rwa [ha]
  rw [memWrite_ok hin, ha, writeBytes_append]
  rfl

/-- The two zero words behind the `n` argument bytes of a new stack (R244). -/
theorem memWrite_sentinels {bottom : Addr} {n : Word} {bs : List Byte} (hlen : bs.length = n.toNat)
    (hlt : bottom.toNat + n.toNat + 4 < 65536) (hcap : bottom.toNat + n.toNat + 4 ≤ s.params.memCap) :
    memWrite (bottom + n) (0 : Word) (s.writeBytes bottom.toNat bs) =
        .ok (s.writeBytes bottom.toNat (bs ++ [0, 0])) ∧
      memWrite (bottom + n + 2) (0 : Word) (s.writeBytes bottom.toNat (bs ++ [0, 0])) =
        .ok (s.writeBytes bottom.toNat (bs ++ [0, 0, 0, 0])) := by
  have haddr : (bottom + n).toNat = bottom.toNat + bs.length := by
    rw [hlen, BitVec.toNat_add, Nat.mod_eq_of_lt (by omega)]
  have haddr2 : (bottom + n + 2).toNat = bottom.toNat + bs.length + 2 :=
    (toNat_add_k (k := 2) (by omega)).trans (by rw [haddr])
  have hlen2 : (bs ++ [0, 0]).length = bs.length + 2 := by simp
  refine ⟨memWrite_zero_behind haddr (by omega), ?_⟩
  rw [memWrite_zero_behind (by rw [haddr2, hlen2, Nat.add_assoc]) (by omega), List.append_assoc]
  rfl

/-- The state that `Dispatch` leaves, but for memory and the thread record (R244). -/
def State.dispatched (s : State) (b t : Nat) (rest : List Nat) : State :=
  { s with
    threadFree := rest
    bins := s.bins.set b { s.bin b with free := true }
    binFree := b :: s.binFree
    actStack := { kind := .root, thread := t, savedFp := 0, obj := 0 } :: s.actStack }

section
variable (hb : b < s.params.nBins) (hbusy : (s.bin b).free = false) (hwait : s.syncWait = false)
include hb hbusy hwait

theorem dispatch_not_ignored : ¬ (s.params.nBins ≤ b ∨ (s.bin b).free = true ∨ s.syncWait = true) := by
  simp [hbusy, hwait, hb]

theorem dispatchBin_no_thread (hnone : s.threadFree = []) : dispatchBin b s = .error .threadPoolExhausted := by
  rw [dispatchBin, if_neg (dispatch_not_ignored hb hbusy hwait), hnone]
  rfl

variable (hfirst : s.threadFree = t :: rest)
include hfirst

theorem dispatchBin_too_deep (hdepth : s.actStack.length = s.params.maxActDepth) :
    dispatchBin b s = .error .activationDepthExceeded := by
  rw [dispatchBin, if_neg (dispatch_not_ignored hb hbusy hwait), hfirst]
  simp only [if_pos hdepth, error_bind]

variable (hdepth : s.actStack.length ≠ s.params.maxActDepth)
include hdepth

theorem dispatchBin_overflow
    (hfull : (s.thread t).top.toNat < (s.thread t).bottom.toNat + (s.bin b).argSize.toNat + 4) :
    dispatchBin b s = .error .stackOverflow := by
  obtain ⟨hbottom, htop⟩ := thread_allocated_bounds s t rest
  have halloc : allocThread s = .ok (t, s.allocated t rest) := allocThread_eq_ok.2 ⟨rest, hfirst, rfl⟩
  rw [dispatchBin, if_neg (dispatch_not_ignored hb hbusy hwait), hfirst]
  simp only [if_neg hdepth, halloc, ok_bind, hbottom, htop]
  exact if_pos hfull

/-- With the room, the arguments and two zero words are the new stack of the thread taken (R244). -/
theorem dispatchBin_starts
    (hroom : (s.thread t).bottom.toNat + (s.bin b).argSize.toNat + 4 ≤ (s.thread t).top.toNat)
    (hcap : (s.thread t).top.toNat ≤ s.params.memCap) :
    dispatchBin b s = .ok (((s.dispatched b t rest).writeBytes (s.thread t).bottom.toNat
        (s.binBytes b (s.bin b).argSize.toNat ++ [0, 0, 0, 0])).setThread t
      { s.thread t with
        pc := (s.bin b).method
        sp := (s.thread t).bottom + (s.bin b).argSize + 4
        fp := (s.thread t).bottom + (s.bin b).argSize + 4
        free := false }) := by
  have halloc : allocThread s = .ok (t, s.allocated t rest) := allocThread_eq_ok.2 ⟨rest, hfirst, rfl⟩
  rw [dispatchBin, if_neg (dispatch_not_ignored hb hbusy hwait), hfirst]
  have htopLt := (s.thread t).top.isLt
  have hl : t < s.threads.length := lt_threads_length_of_top (k := 0) (by omega)
  obtain ⟨hzero, hzero2⟩ := memWrite_sentinels (s := s.allocated t rest)
    (binBytes_length s b (s.bin b).argSize.toNat) (by omega) (hroom.trans hcap)
  simp only [if_neg hdepth, halloc, ok_bind, bin_allocated, binBytes_allocated,
    if_neg (Nat.not_lt.2 hroom), hzero, hzero2, thread_writeBytes, thread_allocated hl,
    setThread_writeBytes_allocated]
  rfl

end

end

end Sys2Proof.Machine

/-! ## The instructions -/

namespace Sys2Proof.Calls

open Sys2Proof.Machine

/-- Settles O23: the rule for a native that writes no memory, at the callback. -/
theorem nativeRegisterCallback : Obligations.NativeRegisterCallback := by
  intro s t hready hneed hroom
  have ⟨_, _, _, htop⟩ := hready
  have hrun := nativeRegisterCallback_entered (by omega) hroom htop
  have hframe := readBytes_entered_frame s t
  refine ecall_completes (id := 2) (nat := .registerCallback) hready rfl hneed hroom hrun rfl rfl hframe ?bytes
    fun a ha => ?others
  case bytes => rwa [frameBytes_length]
  case others => exact byteAt_entered_outside (by rwa [frameBytes_length] at ha)

/-- Settles O24: by the bounds of the buffer, then whether the ring takes the frame. -/
theorem nativeTransmit : Obligations.NativeTransmit := by
  refine fun s t hready hneed hroom => ⟨fun hout => ?length, fun hin hout => ?data, fun hin =>
    ⟨fun q hq => ?queued, fun hfull => ?busy⟩⟩
  case length =>
    exact ecall_faults (id := 3) (nat := .transmit) hready rfl hneed hroom
      (nativeTransmit_length_outside hready hneed hroom hout)
  case data =>
    exact ecall_faults (id := 3) (nat := .transmit) hready rfl hneed hroom
      (nativeTransmit_data_outside hready hneed hroom hin hout)
  case queued =>
    have hkept := enqueue_frame hq
    have htaken : enqueue (s.wire t) (s.entered t) =
        some { q with mem := (s.entered t).mem, threads := (s.entered t).threads } := by
      rw [entered_eq, enqueue_with_mem_threads]
      exact congrArg (Option.map _) hq
    refine transmit_completes hready hneed hroom (by rw [hkept]) (by rw [hkept]) ?_
    rw [nativeTransmit_inside hready hneed hroom hin, htaken, Option.elim_some]
  case busy =>
    have hrejected : enqueue (s.wire t) (s.entered t) = none := by
      rw [entered_eq, enqueue_with_mem_threads]
      exact congrArg (Option.map _) hfull
    refine transmit_completes hready hneed hroom rfl rfl ?_
    rw [nativeTransmit_inside hready hneed hroom hin, hrejected, Option.elim_none, ← entered_eq]

/-- Settles O26: the faults in order, then the call. -/
theorem syncCall : Obligations.SyncCall :=
  ⟨rfl, fun _ _ hready => ⟨sync_underflow hready, fun hbot => ⟨sync_no_bin hready hbot, fun _ _ hbin =>
    ⟨sync_too_deep hready hbot hbin, sync_completes hready hbot hbin⟩⟩⟩⟩

/-- Settles O29: the faults in order, then the call; the data of its bin are the arguments over the old bytes. -/
theorem asyncCall : Obligations.AsyncCall := by
  refine ⟨rfl, fun s t hready => ⟨async_operand_underflow hready, fun hbot => ⟨async_too_large hready hbot,
    async_args_underflow hready hbot, fun hsize hargs => ⟨async_no_bin hready hbot hsize hargs,
      fun b rest hbin hb => ?issued⟩⟩⟩⟩
  case issued =>
    exact ⟨Memory.putAll (s.bin b).data 0 (s.asyncArgs t),
      async_completes hready hbot hsize hargs hbin hb, bytes_putAll_asyncArgs s t _ _ _,
      fun _ hi => byteOr_putAll_asyncArgs s t _ _ _ hi⟩

/-- Settles O30: the ignored cases, the faults in order, then the new root activation. -/
theorem dispatch : Obligations.Dispatch := by
  intro s b halive
  have hsettled : ∀ r, dispatchBin b s = r → inputEvent (.dispatch b) s = settle s r := fun r h =>
    h ▸ inputEvent_of_alive halive
  have hfault : ∀ f, dispatchBin b s = .error f → inputEvent (.dispatch b) s = faultedNow s f := fun f h =>
    (hsettled _ h).trans (raiseFault_eq_faultedNow s f)
  refine ⟨fun h => hsettled _ (dispatchBin_ignored h), fun hb hbusy hwait =>
    ⟨fun hnone => ?noThread, fun t rest hfirst =>
      ⟨fun hdepth => ?tooDeep, fun hdepth => ⟨fun hfull => ?overflow, fun hroom hcap => ?starts⟩⟩⟩⟩
  case noThread => exact hfault _ (dispatchBin_no_thread hb hbusy hwait hnone)
  case tooDeep => exact hfault _ (dispatchBin_too_deep hb hbusy hwait hfirst hdepth)
  case overflow => exact hfault _ (dispatchBin_overflow hb hbusy hwait hfirst hdepth hfull)
  case starts =>
    rw [hsettled _ (dispatchBin_starts hb hbusy hwait hfirst hdepth hroom hcap), settle_ok]
    exact ⟨rfl, rfl, readBytes_writeBytes (s.dispatched b t rest) _ _,
      byteAt_writeBytes_outside (s.dispatched b t rest) _ _⟩

end Sys2Proof.Calls

/-! PROOF. The application frame and the receive timeout (44_codec_framer.md, R270, R273, R274): one rule per branch
of the classification, of the delivery to the callback, and of the timeout. -/

namespace Sys2Proof.Machine

/-! ## The length behind the payload -/

/-- The low bytes of a number are the slices of the word it wraps to, however large it is (R73). -/
theorem leBytes_eq_slices_ofNat (k m : Nat) : leBytes k m = slices k (BitVec.ofNat (8 * k) m) := by
  have hlow : leBytes k (m % 256 ^ k) = leBytes k m := by
    simpa only [leBytes_length, leNat_leBytes] using leBytes_leNat (leBytes k m)
  rw [← leBytes_eq_slices, BitVec.toNat_ofNat, Nat.pow_mul]
  exact hlow.symm

/-- What the bin of an application frame holds: the payload, then its length as a word (R273). -/
def callbackData (x : List Byte) : List Byte := x ++ slices 2 (BitVec.ofNat 16 x.length)

@[simp] theorem callbackData_length (x : List Byte) : (callbackData x).length = x.length + 2 := by
  rw [callbackData, List.length_append, slices_length]

/-- The bin's first bytes are the payload and its length. -/
theorem bytes_putAll_callbackData (x : List Byte) (n : Nat) (sp : Space) (m : Memory) :
    Memory.bytes n sp (Memory.putAll m 0 (callbackData x)) 0 (x.length + 2) = callbackData x := by
  simpa only [callbackData_length] using Memory.bytes_putAll n sp m 0 (callbackData x)

/-! ## The application frame (R270, R273) -/

section
variable {s : State} {h : Byte} {x : List Byte}

/-- A header that R270 does not list makes an application frame. -/
theorem frameComplete_of_application (hinit : h ≠ 0x01) (hmore : h ≠ 0x02) (hreset : h ≠ 0x04) :
    frameComplete (h :: x) s = applicationFrame (h :: x) s :=
  (if_neg hinit).trans ((if_neg hmore).trans (if_neg hreset))

theorem applicationFrame_no_callback (hcb : s.cbValid = false) : applicationFrame (h :: x) s = .ok s :=
  if_pos (by rw [hcb]; rfl)

theorem applicationFrame_too_long (hcb : s.cbValid = true) (hlong : s.params.binCap < x.length + 2) :
    applicationFrame (h :: x) s = .ok s :=
  (if_neg (by rw [hcb]; decide)).trans (if_pos hlong)

/-- With a callback and a payload that fits, the frame is an asynchronous call without an origin and without
timing (R243, R273). -/
theorem applicationFrame_issues (hcb : s.cbValid = true) (hfits : x.length + 2 ≤ s.params.binCap) :
    applicationFrame (h :: x) s = issueAsync (callbackData x) s.cbMethod none s.cbObj 0 0 s := by
  rw [callbackData, ← leBytes_eq_slices_ofNat 2]
  exact (if_neg (by rw [hcb]; decide)).trans (if_neg (Nat.not_lt.2 hfits))

end

/-! ## The receive timeout (R274) -/

section
variable {s : State} (henabled : s.params.rxTimeoutEnable = true)
include henabled

theorem rxTimeout_inFrame (hstate : s.fstate = .inFrame) :
    rxTimeout s = { s with fstate := .idle, flen := 0, fovf := false, escPending := false } := by
  simp only [rxTimeout, henabled, hstate, Bool.not_true, Bool.false_eq_true, if_false]

theorem rxTimeout_idle (hstate : s.fstate = .idle) : rxTimeout s = { s with escPending := false } := by
  simp only [rxTimeout, henabled, hstate, Bool.not_true, Bool.false_eq_true, if_false]

end

end Sys2Proof.Machine

/-! ## The link -/

namespace Sys2Proof.Framer

open Sys2Proof.Machine

/-- Settles O41: dropped without a callback or room, a fault without a bin, else issued with the first free bin. -/
theorem applicationFrame : Obligations.ApplicationFrame := by
  intro s h x hinit hmore hreset
  rw [frameComplete_of_application hinit hmore hreset]
  refine ⟨fun hdrop => ?dropped, fun hcb hfits => ⟨fun hnone => ?noBin, fun b rest hbin hb => ?delivered⟩⟩
  case dropped =>
    cases hcb : s.cbValid with
    | false => exact applicationFrame_no_callback hcb
    | true => exact applicationFrame_too_long hcb (hdrop.resolve_left (by rw [hcb]; decide))
  case noBin => rw [applicationFrame_issues hcb hfits, issueAsync_exhausted hnone]
  case delivered =>
    refine ⟨Memory.putAll (s.bin b).data 0 (callbackData x), ?_, bytes_putAll_callbackData x _ _ _⟩
    rw [applicationFrame_issues hcb hfits, issueAsync_ok hbin hb, callbackData_length]

/-- Settles O42: the event is settled as `rxTimeout`, in either state of the receiver. -/
theorem receiveTimeout : Obligations.ReceiveTimeout := by
  intro s halive henabled
  have hevent : inputEvent .rxTimeout s = rxTimeout s := inputEvent_of_alive halive
  exact ⟨fun hstate => hevent.trans (rxTimeout_inFrame henabled hstate),
    fun hstate => hevent.trans (rxTimeout_idle henabled hstate)⟩

end Sys2Proof.Framer

/-! PROOF. The reliable segment transfer (45_segment_protocol.md, R290 to R300): what the receiver reads out of a
segment frame, the acknowledgment, and one rule per branch of the two kinds of segment. -/

namespace Sys2Proof.Machine

/-! ## A segment frame, read back (R290, R291) -/

/-- A word is the little-endian number of its two bytes. -/
theorem leNat_slices_word (v : Word) : leNat (slices 2 v) = v.toNat := by
  rw [← leBytes_eq_slices, leNat_leBytes]
  exact Nat.mod_eq_of_lt v.isLt

/-- The accumulator of R291 is the sum of the bytes, wherever it is reduced. -/
theorem ofNat_sum_toNat_eq_checksum (bs : List Byte) :
    BitVec.ofNat 8 (bs.map BitVec.toNat).sum = checksum bs := by
  have hacc : ∀ (bs : List Byte) (acc : Byte),
      acc + BitVec.ofNat 8 (bs.map BitVec.toNat).sum = bs.foldl (· + ·) acc := by
    intro bs
    induction bs with
    | nil => intro acc; simp
    | cons b bs ih =>
      intro acc
      rw [List.foldl_cons, ← ih, List.map_cons, List.sum_cons, BitVec.ofNat_add, BitVec.ofNat_toNat,
        BitVec.setWidth_eq, BitVec.add_assoc]
  exact (BitVec.zero_add _).symm.trans (hacc bs 0)

section
variable (h : Byte) (field : Word) (data : List Byte) (ck : Byte)

theorem segmentFrame_length : (segmentFrame h field data ck).length = data.length + 4 := by
  simp only [segmentFrame, List.length_cons, List.length_append, slices_length, List.length_nil]
  omega

@[simp] theorem frameField_segmentFrame : frameField (segmentFrame h field data ck) = field.toNat :=
  leNat_slices_word field

@[simp] theorem frameData_segmentFrame : frameData (segmentFrame h field data ck) = data :=
  List.dropLast_concat

@[simp] theorem frameSum_segmentFrame :
    frameSum (segmentFrame h field data ck) = checksum (slices 2 field ++ data) := by
  have hsummed : ((segmentFrame h field data ck).drop 1).dropLast = slices 2 field ++ data :=
    List.dropLast_concat
  rw [frameSum, hsummed, ofNat_sum_toNat_eq_checksum]

@[simp] theorem frameCk_segmentFrame : frameCk (segmentFrame h field data ck) = ck := by
  have hlast : (segmentFrame h field data ck).length - 1 = (h :: (slices 2 field ++ data)).length := by
    simp only [segmentFrame_length, List.length_cons, List.length_append, slices_length]
    omega
  rw [frameCk, hlast, segmentFrame, ← List.cons_append, List.getD_append_right _ _ _ _ le_rfl, Nat.sub_self]
  rfl

/-- A segment frame passes the test of R290 and R291 exactly where its last byte is the sum of field and data. -/
theorem segmentOk_segmentFrame :
    segmentOk (segmentFrame h field data ck) = true ↔ checksum (slices 2 field ++ data) = ck := by
  simp [segmentOk, segmentFrame_length]

end

/-- An init segment whose checksum is right is classified as such (R270). -/
theorem frameComplete_init (s : State) (field : Word) (data : List Byte) :
    frameComplete (segmentFrame 0x01 field data (checksum (slices 2 field ++ data))) s =
      initSegment (segmentFrame 0x01 field data (checksum (slices 2 field ++ data))) s :=
  if_pos ((segmentOk_segmentFrame _ _ _ _).2 rfl)

/-- A continuation segment whose checksum is right is classified as such (R270). -/
theorem frameComplete_more (s : State) (field : Word) (data : List Byte) :
    frameComplete (segmentFrame 0x02 field data (checksum (slices 2 field ++ data))) s =
      moreSegment (segmentFrame 0x02 field data (checksum (slices 2 field ++ data))) s :=
  if_pos ((segmentOk_segmentFrame _ _ _ _).2 rfl)

/-! ## The acknowledgment (R300) -/

theorem ackBody_eq (confirmed : Word) : ackBody confirmed = [0x03] ++ slices 2 confirmed ++ [0x00] := by
  rw [ackBody, leBytes_eq_slices]
  rfl

section
variable {s : State}

theorem sendAck_taken {q : State} (hq : enqueue (wireFrame (ackBody s.confirmedReceived)) s = some q) :
    sendAck s = q := by
  rw [sendAck, hq]

theorem sendAck_lost (hq : enqueue (wireFrame (ackBody s.confirmedReceived)) s = none) : sendAck s = s := by
  rw [sendAck, hq]

end

/-- An acknowledgment changes the transmitter and the outputs only (R300, R352). -/
theorem sendAck_frame (s : State) :
    sendAck s = { s with
      ring := (sendAck s).ring
      txHead := (sendAck s).txHead
      txCount := (sendAck s).txCount
      txActive := (sendAck s).txActive
      outputs := (sendAck s).outputs } := by
  cases hq : enqueue (wireFrame (ackBody s.confirmedReceived)) s with
  | none => rw [sendAck_lost hq]
  | some q =>
    rw [sendAck_taken hq]
    exact enqueue_frame hq

@[simp] theorem sendAck_confirmedReceived (s : State) : (sendAck s).confirmedReceived = s.confirmedReceived := by
  rw [sendAck_frame]

@[simp] theorem sendAck_totalLen (s : State) : (sendAck s).totalLen = s.totalLen := by
  rw [sendAck_frame]

/-! ## Accepted data (R296 to R298) -/

/-- The state in which data accepted at an offset are written, confirmed and acknowledged. -/
def State.withData (s : State) (off : Nat) (data : List Byte) : State :=
  sendAck { s.writeBytes off data with confirmedReceived := BitVec.ofNat 16 (off + data.length) }

section
variable {s : State} {off : Nat} {data : List Byte}

/-- Data accepted are written, confirmed and acknowledged, and the loader runs where nothing is missing. -/
theorem acceptData_eq : acceptData off data s =
    if BitVec.ofNat 16 (off + data.length) = s.totalLen then load (s.withData off data)
    else .ok (s.withData off data) := by
  simp only [acceptData, State.withData, sendAck_confirmedReceived, sendAck_totalLen]
  rfl

theorem acceptData_incomplete (hmissing : off + data.length < s.totalLen.toNat) :
    acceptData off data s = .ok (s.withData off data) := by
  rw [acceptData_eq, if_neg]
  intro hcount
  rw [← hcount, BitVec.toNat_ofNat] at hmissing
  exact absurd (Nat.mod_le _ _) (Nat.not_le.2 hmissing)

theorem acceptData_complete (hall : off + data.length = s.totalLen.toNat) :
    acceptData off data s = load (s.withData off data) := by
  rw [acceptData_eq, if_pos]
  rw [hall, BitVec.ofNat_toNat, BitVec.setWidth_eq]

end

/-! ## The init segment (R296) -/

/-- The state in which a transfer of `total` bytes begins, before its first data are taken. -/
def State.beginTransfer (s : State) (total : Word) : State :=
  { s with
    confirmedReceived := 0
    totalLen := total
    imageValid := false
    linkError := false
    cbValid := false }

section
variable {s : State} {f : List Byte} {total : Word} {data : List Byte}
  (hfield : frameField f = total.toNat) (hdata : frameData f = data)
include hfield hdata

theorem initSegment_dropped (hbad : s.params.memCap < total.toNat ∨ total.toNat < data.length) :
    initSegment f s = .ok s := by
  subst hdata
  by_cases hcap : s.params.memCap < frameField f
  · exact if_pos hcap
  · exact (if_neg hcap).trans (if_pos (hfield ▸ hbad.resolve_left (hfield ▸ hcap)))

variable (hcap : total.toNat ≤ s.params.memCap) (hlen : data.length ≤ total.toNat)
include hcap hlen

theorem initSegment_live (hlive : ¬ Quiescent s) : initSegment f s = .error .loadWhileLive := by
  subst hdata
  rw [← hfield] at hcap hlen
  have hrefused : (!s.quiescent) = true := by
    rw [Bool.not_eq_true', ← Bool.not_eq_true, quiescent_iff]
    exact hlive
  exact (if_neg (Nat.not_lt.2 hcap)).trans ((if_neg (Nat.not_lt.2 hlen)).trans (if_pos hrefused))

theorem initSegment_accepted (hquiet : Quiescent s) :
    initSegment f s = acceptData 0 data (s.beginTransfer total) := by
  subst hdata
  have htotal : BitVec.ofNat 16 (frameField f) = total := by
    rw [hfield, BitVec.ofNat_toNat, BitVec.setWidth_eq]
  rw [← hfield] at hcap hlen
  have hallowed : ¬ (!s.quiescent) = true := by
    rw [(quiescent_iff s).2 hquiet]
    decide
  rw [← htotal]
  exact (if_neg (Nat.not_lt.2 hcap)).trans ((if_neg (Nat.not_lt.2 hlen)).trans (if_neg hallowed))

end

/-! ## The continuation segment (R297) -/

section
variable {s : State} {f : List Byte} {off : Word} {data : List Byte}
  (hfield : frameField f = off.toNat) (hdata : frameData f = data)
include hfield

theorem moreSegment_gap (hgap : s.confirmedReceived.toNat < off.toNat) : moreSegment f s = .ok s :=
  if_pos (hfield ▸ hgap)

variable (hnear : off.toNat ≤ s.confirmedReceived.toNat)
include hdata hnear

/-- Without a gap the segment's end alone decides. -/
theorem moreSegment_near : moreSegment f s =
    if off.toNat + data.length ≤ s.confirmedReceived.toNat then .ok (sendAck s)
    else if s.totalLen.toNat < off.toNat + data.length then .ok s
    else acceptData off.toNat data s := by
  subst hdata
  rw [← hfield] at hnear ⊢
  exact if_neg (Nat.not_lt.2 hnear)

theorem moreSegment_duplicate (hold : off.toNat + data.length ≤ s.confirmedReceived.toNat) :
    moreSegment f s = .ok (sendAck s) :=
  (moreSegment_near hfield hdata hnear).trans (if_pos hold)

variable (hnew : s.confirmedReceived.toNat < off.toNat + data.length)
include hnew

theorem moreSegment_overrun (hover : s.totalLen.toNat < off.toNat + data.length) : moreSegment f s = .ok s :=
  (moreSegment_near hfield hdata hnear).trans ((if_neg (Nat.not_le.2 hnew)).trans (if_pos hover))

theorem moreSegment_accepted (hfits : off.toNat + data.length ≤ s.totalLen.toNat) :
    moreSegment f s = acceptData off.toNat data s :=
  (moreSegment_near hfield hdata hnear).trans
    ((if_neg (Nat.not_le.2 hnew)).trans (if_neg (Nat.not_lt.2 hfits)))

end

end Sys2Proof.Machine

/-! ## The segment protocol -/

namespace Sys2Proof.Segment

open Sys2Proof.Machine

/-- Settles O47: the tests in order, then the data at 0 of a transfer that has just begun. -/
theorem initSegment : Obligations.InitSegment := by
  intro s total data f accepted
  have hclass : frameComplete f s = Machine.initSegment f s := frameComplete_init s total data
  have hfield : frameField f = total.toNat := frameField_segmentFrame _ _ _ _
  have hdata : frameData f = data := frameData_segmentFrame _ _ _ _
  have hbegun : (s.beginTransfer total).withData 0 data = accepted := by
    rw [State.withData, Nat.zero_add]
    rfl
  rw [hclass, ← hbegun]
  refine ⟨initSegment_dropped hfield hdata, fun hcap hlen =>
    ⟨initSegment_live hfield hdata hcap hlen, fun hquiet hmissing => ?incomplete, fun hquiet hall => ?complete⟩⟩
  case incomplete =>
    rw [initSegment_accepted hfield hdata hcap hlen hquiet]
    exact acceptData_incomplete ((Nat.zero_add _).trans_lt hmissing)
  case complete =>
    rw [initSegment_accepted hfield hdata hcap hlen hquiet]
    exact acceptData_complete ((Nat.zero_add _).trans hall)

/-- Settles O48: gap, duplicate, overrun, then the data at their offset. -/
theorem continuationSegment : Obligations.ContinuationSegment := by
  intro s off data f upto accepted
  have hclass : frameComplete f s = moreSegment f s := frameComplete_more s off data
  have hfield : frameField f = off.toNat := frameField_segmentFrame _ _ _ _
  have hdata : frameData f = data := frameData_segmentFrame _ _ _ _
  rw [hclass]
  refine ⟨moreSegment_gap hfield, fun hnear => ⟨moreSegment_duplicate hfield hdata hnear,
    moreSegment_overrun hfield hdata hnear, fun hnew hmissing => ?incomplete, fun hnew hall => ?complete⟩⟩
  case incomplete =>
    rw [moreSegment_accepted hfield hdata hnear hnew (Nat.le_of_lt hmissing)]
    exact acceptData_incomplete hmissing
  case complete =>
    rw [moreSegment_accepted hfield hdata hnear hnew (Nat.le_of_eq hall)]
    exact acceptData_complete hall

/-- Settles O50: the ring takes the escaped frame or rejects it; the example has its count's low byte escaped. -/
theorem acknowledgment : Obligations.Acknowledgment := by
  refine ⟨fun s => ?_, by decide⟩
  rw [← ackBody_eq]
  exact ⟨fun _ => sendAck_taken, sendAck_lost⟩

end Sys2Proof.Segment

/-! PROOF. The program loader (46_loader_linker.md, R320 to R332): what the shift, the walk and the stack carve leave
in memory, that nothing else of the block is theirs, and one rule per way a load with a good header ends. -/

namespace Sys2Proof.Machine

/-! ## Operations on the memory image alone -/

/-- `s'` is `s` but for the memory image. -/
def SameButMem (s s' : State) : Prop := s' = { s with mem := s'.mem }

namespace SameButMem

theorem refl (s : State) : SameButMem s s := rfl

theorem trans {s s' s'' : State} (h : SameButMem s s') (h' : SameButMem s' s'') : SameButMem s s'' := by
  unfold SameButMem at *
  rw [h', h]

theorem writeBytes (s : State) (a : Nat) (bs : List Byte) : SameButMem s (s.writeBytes a bs) := rfl

end SameButMem

/-! ## The shift (R322) -/

theorem byteAt_writeBytes_singleton (s : State) (i : Nat) (v : Byte) (a : Nat) :
    (s.writeBytes i [v]).byteAt a = if a = i then v else s.byteAt a := by
  split
  case isTrue h => exact h ▸ Memory.byteOr_put_same s.resets .mem s.mem i v
  case isFalse h => exact byteAt_writeBytes_outside s i [v] a (by simp only [List.length_singleton]; omega)

theorem shiftImage_sameButMem (i k : Nat) (s : State) : SameButMem s (shiftImage i k s) := by
  induction k generalizing i s with
  | zero => exact .refl s
  | succ k ih => exact (SameButMem.writeBytes s i _).trans (ih (i + 1) _)

/-- The loop rises, so the byte it reads at `a + 8` is not yet overwritten when it comes to `a`. -/
theorem byteAt_shiftImage (i k : Nat) (s : State) (a : Nat) :
    (shiftImage i k s).byteAt a = if i ≤ a ∧ a < i + k then s.byteAt (a + headerLength) else s.byteAt a := by
  induction k generalizing i s with
  | zero => exact (if_neg (by omega)).symm
  | succ k ih =>
    simp only [shiftImage, ih, byteAt_writeBytes_singleton]
    obtain hbelow | rfl | habove := Nat.lt_trichotomy a i
    · rw [if_neg (by omega), if_neg (by omega), if_neg (by omega)]
    · rw [if_neg (by omega), if_pos rfl, if_pos (by omega)]
    · have hkept : a + headerLength ≠ i := (Nat.lt_add_right _ habove).ne'
      rw [if_neg hkept, if_neg habove.ne']
      exact if_congr (by omega) rfl rfl

/-! ## The walk (R325 to R327) -/

/-- A turn of the walk ends it where it stands, or goes on with at most one CALL resolved. -/
theorem linkWalk_turn (xb n fuel p : Nat) (s : State) :
    (∃ linked, linkWalk xb n (fuel + 1) p s = (s, linked)) ∨
    ∃ q s', linkWalk xb n (fuel + 1) p s = linkWalk xb n fuel q s' ∧
      (s' = s ∨ ∃ t, resolve p t n s = some s') := by
  simp only [linkWalk]
  split
  · exact .inl ⟨_, rfl⟩
  split
  · exact .inl ⟨_, rfl⟩
  split
  · exact .inl ⟨_, rfl⟩
  split
  · exact .inl ⟨_, rfl⟩
  split
  · split
    · split
      · exact .inl ⟨_, rfl⟩
      · next hresolved => exact .inr ⟨_, _, rfl, .inr ⟨_, hresolved⟩⟩
    · exact .inr ⟨_, _, rfl, .inl rfl⟩
  · exact .inr ⟨_, _, rfl, .inl rfl⟩

theorem resolve_sameButMem {p t n : Nat} {s s' : State} (h : resolve p t n s = some s') : SameButMem s s' := by
  obtain ⟨_, _, _, _, _, rfl⟩ := resolve_eq_some.1 h
  exact .writeBytes s p _

theorem linkWalk_sameButMem (xb n fuel p : Nat) (s : State) : SameButMem s (linkWalk xb n fuel p s).1 := by
  induction fuel generalizing p s with
  | zero => exact .refl s
  | succ fuel ih =>
    obtain ⟨_, hend⟩ | ⟨q, s', hgoes, rfl | ⟨_, hresolved⟩⟩ := linkWalk_turn xb n fuel p s
    · rw [hend]
      exact .refl s
    · rw [hgoes]
      exact ih q _
    · rw [hgoes]
      exact (resolve_sameButMem hresolved).trans (ih q s')

/-! ## The stack carve (R330) -/

/-- The stacks reach from the extern boundary to `MEM_CAP`, and every byte of them is zeroed. -/
theorem byteAt_carveStacks_inside {xb a : Nat} {s : State} (hlow : xb ≤ a) (hhigh : a < s.params.memCap) :
    (carveStacks xb s).byteAt a = 0 := by
  have hroom : a < xb + (List.replicate (s.params.memCap - xb) (0 : Byte)).length := by
    rw [List.length_replicate]
    omega
  have hwritten : (carveStacks xb s).byteAt a =
      (List.replicate (s.params.memCap - xb) (0 : Byte))[a - xb]?.getD 0 :=
    byteAt_writeBytes_inside s xb _ a hlow hroom
  rw [hwritten, List.getElem?_replicate]
  split <;> rfl

theorem byteAt_carveStacks_outside {xb a : Nat} {s : State} (hxb : xb ≤ s.params.memCap)
    (h : a < xb ∨ s.params.memCap ≤ a) : (carveStacks xb s).byteAt a = s.byteAt a :=
  byteAt_writeBytes_outside s xb _ a (by rw [List.length_replicate]; omega)

/-! ## The load of an image with a good header (R320, R331, R332) -/

theorem headerOk_eq_true {ps ep xb n memCap : Nat} :
    headerOk ps ep xb n memCap = true ↔ ps ≤ xb ∧ xb ≤ n ∧ xb ≤ memCap ∧ ps ≤ ep ∧ ep < xb := by
  simp only [headerOk, Bool.and_eq_true, decide_eq_true_eq, and_assoc]

/-- Where the walk of an image received whole ends: the body shifted, the walk from `progStart` to the extern
boundary of its header. -/
def State.walked (s : State) : State × Bool :=
  linkWalk (s.valueAt 16 6).toNat (s.totalLen.toNat - headerLength) (s.valueAt 16 6).toNat (s.valueAt 16 2).toNat
    (shiftImage 0 (s.totalLen.toNat - headerLength) s)

/-- The header of the image received passes the tests of R321 and R323. -/
structure GoodHeader (s : State) : Prop where
  whole : headerLength ≤ s.totalLen.toNat
  ok : headerOk (s.valueAt 16 2).toNat (s.valueAt 16 4).toNat (s.valueAt 16 6).toNat
    (s.totalLen.toNat - headerLength) s.params.memCap = true

/-- The state that publishes an image over the memory `mem`: R330 and R331, with `b` the first free bin. -/
def State.published (s : State) (mem : Memory) (b : Nat) (rest : List Nat) : State :=
  { s with
    mem := mem
    threads := carvedThreads s.params (s.valueAt 16 6).toNat
    threadFree := List.range s.params.nThreads
    bins := s.bins.set b { s.bin b with argSize := 0, method := s.valueAt 16 4, origin := none, free := false }
    binFree := rest
    progStart := s.valueAt 16 2
    externB := s.valueAt 16 6
    imageValid := true
    linkError := false
    outputs := s.outputs ++ [.schedAsync (s.valueAt 16 0) 0 0 b] }

/-- The walk and the shift before it change nothing but memory. -/
theorem walked_sameButMem (s : State) : SameButMem s s.walked.1 :=
  (shiftImage_sameButMem _ _ s).trans (linkWalk_sameButMem _ _ _ _ _)

theorem walked_params (s : State) : s.walked.1.params = s.params := by rw [walked_sameButMem s]

theorem byteAt_published (s : State) (b : Nat) (rest : List Nat) (a : Nat) :
    (s.published (carveStacks (s.valueAt 16 6).toNat s.walked.1).mem b rest).byteAt a =
      (carveStacks (s.valueAt 16 6).toNat s.walked.1).byteAt a :=
  byteAt_congr _ _ a (by rw [walked_sameButMem s]; rfl) rfl

section
variable {s : State} {b : Nat} {rest : List Nat}

/-- Publishing schedules the entry point, a call without arguments, in the first free bin (R243, R331). -/
theorem publish_carved {mem : Memory} (hbin : s.binFree = b :: rest) (hb : b < s.bins.length) :
    publish (s.valueAt 16 0) (s.valueAt 16 2).toNat (s.valueAt 16 4).toNat (s.valueAt 16 6).toNat
      (carveStacks (s.valueAt 16 6).toNat { s with mem := mem }) =
    .ok (s.published (carveStacks (s.valueAt 16 6).toNat { s with mem := mem }).mem b rest) := by
  simp only [publish, BitVec.ofNat_toNat, BitVec.setWidth_eq]
  exact issueAsync_ok hbin hb

variable (hgood : GoodHeader s)
include hgood

/-- With a good header the walk alone decides how the load goes on. -/
theorem load_of_goodHeader : load s =
    if s.walked.2 then
      publish (s.valueAt 16 0) (s.valueAt 16 2).toNat (s.valueAt 16 4).toNat (s.valueAt 16 6).toNat
        (carveStacks (s.valueAt 16 6).toNat s.walked.1)
    else .ok (linkFailed s.walked.1) := by
  simp only [load, if_neg (Nat.not_lt.2 hgood.whole), hgood.ok, Bool.not_true, Bool.false_eq_true, if_false]
  rw [← State.walked]
  obtain ⟨s2, _ | _⟩ := s.walked <;> rfl

/-- A link error leaves the walk's memory and no image (R332). -/
theorem load_link_error (hfailed : s.walked.2 = false) : load s = .ok (linkFailed s.walked.1) := by
  rw [load_of_goodHeader hgood, hfailed]
  exact if_neg Bool.false_ne_true

/-- An image that links is published over the memory of the walk with the stacks zeroed (R330, R331). -/
theorem load_linked (hlinked : s.walked.2 = true) (hbin : s.binFree = b :: rest) (hb : b < s.bins.length) :
    load s = .ok (s.published (carveStacks (s.valueAt 16 6).toNat s.walked.1).mem b rest) := by
  rw [load_of_goodHeader hgood, if_pos hlinked, walked_sameButMem s]
  exact publish_carved hbin hb

end

end Sys2Proof.Machine

/-! ## The loader -/

namespace Sys2Proof.Loader

open Sys2Proof.Machine

/-- Settles O51, by induction on the bytes left to move. -/
theorem shiftMovesBody : Obligations.ShiftMovesBody := by
  intro n s
  refine ⟨shiftImage_sameButMem 0 n s, fun a => ?_⟩
  rw [byteAt_shiftImage]
  exact if_congr (by omega) rfl rfl

/-- Settles O55: the header passes, and the walk ends in a link error or in an image that is published. -/
theorem loadLinksAndPublishes : Obligations.LoadLinksAndPublishes := by
  intro s b rest eo ps ep xb n w hwhole hps hep hn hcap hbin hb
  have hgood : GoodHeader s := ⟨hwhole, headerOk_eq_true.2 ⟨hps.trans hep.le, hn, hcap, hps, hep⟩⟩
  have hparams : w.1.params = s.params := walked_params s
  refine ⟨load_link_error hgood, fun hlinked => ⟨_, load_linked hgood hlinked hbin hb, rfl, fun a hlow hhigh => ?zeroed,
    fun a houtside => ?asWalked⟩⟩
  case zeroed => exact (byteAt_published s b rest a).trans (byteAt_carveStacks_inside hlow (hparams ▸ hhigh))
  case asWalked =>
    exact (byteAt_published s b rest a).trans (byteAt_carveStacks_outside (hparams ▸ hcap) (hparams ▸ houtside))

end Sys2Proof.Loader

/-! PROOF. The transmit ring (47_transmit.md, R350 to R354): what putting bytes behind the queue and taking the
oldest one out do to the queue, and one rule per branch of `enqueue` and of `TxComplete`. -/

namespace Sys2Proof.Machine

/-- The state with `x` put into the ring behind what is queued (R352). -/
def State.appended (x : List Byte) (s : State) : State :=
  { s with
    ring := ringPut s.params.txringCap s.ring (s.txHead + s.txCount) x
    txCount := s.txCount + x.length }

section
variable {s : State} {x : List Byte}

/-! ## The queue (R350) -/

@[simp] theorem txQueue_length : s.txQueue.length = s.txCount := by simp [State.txQueue]

theorem txQueue_eq_nil : s.txQueue = [] ↔ s.txCount = 0 := by
  rw [← List.length_eq_zero_iff, txQueue_length]

/-- The places behind the queue hold the bytes put there. -/
theorem ringByte_appended_new (hroom : s.txCount + x.length ≤ s.params.txringCap) {j : Nat} (hj : j < x.length) :
    (s.appended x).ringByte ((s.txHead + (s.txCount + j)) % s.params.txringCap) = x[j] := by
  have hput := get?_ringPut_inside s.params.txringCap x s.ring (s.txHead + s.txCount) j hj (by omega)
  rw [← Nat.add_assoc]
  simp only [State.ringByte, State.appended, Memory.byteOr, hput]

/-- With room for `x` the ring does not wrap onto the bytes already queued. -/
theorem ringByte_appended_old (hroom : s.txCount + x.length ≤ s.params.txringCap) {i : Nat} (hi : i < s.txCount) :
    (s.appended x).ringByte ((s.txHead + i) % s.params.txringCap) =
      s.ringByte ((s.txHead + i) % s.params.txringCap) :=
  Memory.byteOr_congr _ _ _ _ _ (get?_ringPut_outside _ _ _ _ _ fun _ _ => mod_ne_of_lt (by omega) (by omega))

/-- A sequence that fits stands behind what was queued. -/
theorem txQueue_appended (hroom : s.txCount + x.length ≤ s.params.txringCap) :
    (s.appended x).txQueue = s.txQueue ++ x := by
  have hold : (List.range s.txCount).map
      (fun i => (s.appended x).ringByte ((s.txHead + i) % s.params.txringCap)) = s.txQueue :=
    List.map_congr_left fun i hi => ringByte_appended_old hroom (List.mem_range.1 hi)
  have hnew : (List.range x.length).map
      (fun j => (s.appended x).ringByte ((s.txHead + (s.txCount + j)) % s.params.txringCap)) = x :=
    List.ext_getElem (by simp) fun j _ hj => by
      rw [List.getElem_map, List.getElem_range, ringByte_appended_new hroom hj]
  calc (s.appended x).txQueue
      = (List.range (s.txCount + x.length)).map
          (fun i => (s.appended x).ringByte ((s.txHead + i) % s.params.txringCap)) := rfl
    _ = s.txQueue ++ x := by
      rw [List.range_add, List.map_append, List.map_map, hold]
      exact congrArg (s.txQueue ++ ·) hnew

/-- `txShift` takes the byte at `txHead`, the oldest, out of a queue that is not empty. -/
theorem txQueue_eq_cons_txShift (hhead : s.txHead < s.params.txringCap) (hcount : 0 < s.txCount) :
    s.txQueue = s.ringByte s.txHead :: (txShift s).txQueue := by
  obtain ⟨n, hn⟩ : ∃ n, s.txCount = n + 1 := Nat.exists_eq_add_one.2 hcount
  have hrest : (txShift s).txQueue =
      (List.range n).map (fun i => s.ringByte (((s.txHead + 1) % s.params.txringCap + i) % s.params.txringCap)) := by
    rw [← Nat.add_sub_cancel (n := n) (m := 1), ← hn]
    rfl
  rw [hrest, State.txQueue, hn, List.range_succ_eq_map, List.map_cons, List.map_map, Nat.add_zero,
    Nat.mod_eq_of_lt hhead]
  refine congrArg (_ :: ·) (List.map_congr_left fun i _ => ?_)
  rw [Nat.mod_add_mod, Function.comp_apply, Nat.succ_eq_add_one, Nat.add_right_comm, Nat.add_assoc]

/-! ## `enqueue` (R352) -/

theorem enqueue_rejects (hfull : s.params.txringCap < s.txCount + x.length) : enqueue x s = none :=
  if_pos (by omega)

/-- A sequence that fits is put behind the queue, and a transmitter found idle is started. -/
theorem enqueue_fits (hroom : s.txCount + x.length ≤ s.params.txringCap) :
    enqueue x s =
      if s.txActive then some (s.appended x) else some { txShift (s.appended x) with txActive := true } :=
  if_neg (by omega)

theorem enqueue_active (hroom : s.txCount + x.length ≤ s.params.txringCap) (hactive : s.txActive = true) :
    enqueue x s = some (s.appended x) := by
  rw [enqueue_fits hroom, if_pos hactive]

theorem enqueue_idle (hroom : s.txCount + x.length ≤ s.params.txringCap) (hidle : s.txActive = false) :
    enqueue x s = some { txShift (s.appended x) with txActive := true } := by
  rw [enqueue_fits hroom, if_neg (Bool.eq_false_iff.1 hidle)]

/-! ## `TxComplete` (R354) -/

theorem txComplete_spurious (hidle : s.txActive = false) : txComplete s = s := if_pos (by rw [hidle]; rfl)

theorem txComplete_drained (hactive : s.txActive = true) (hempty : s.txCount = 0) :
    txComplete s = { s with txActive := false } :=
  (if_neg (by rw [hactive]; decide)).trans (if_neg (by omega))

theorem txComplete_shifts (hactive : s.txActive = true) (hcount : 0 < s.txCount) : txComplete s = txShift s :=
  (if_neg (by rw [hactive]; decide)).trans (if_pos hcount)

/-- With a fault recorded every event but `Rst` is ignored (R371). -/
theorem inputEvent_of_faulted {e : Input} (hfault : s.fault.valid = true) (he : e ≠ .rst) : inputEvent e s = s :=
  if_pos ⟨hfault, he⟩

theorem inputEvent_txComplete (halive : s.Alive) : inputEvent .txComplete s = txComplete s :=
  inputEvent_of_alive halive

end

end Sys2Proof.Machine

/-! ## The transmitter -/

namespace Sys2Proof.Transmit

open Sys2Proof.Machine

/-- Settles O43: rejected, or appended whole; an idle transmitter then shifts the oldest byte out. -/
theorem enqueueIsWhole : Obligations.EnqueueIsWhole := by
  intro s x hhead hne
  refine ⟨enqueue_rejects, fun hroom => ⟨fun hactive => ?active, fun hidle => ?idle⟩⟩
  case active => exact ⟨s.appended x, enqueue_active hroom hactive, txQueue_appended hroom, rfl⟩
  case idle =>
    have hcount : 0 < (s.appended x).txCount := Nat.add_pos_right _ (List.length_pos_iff.2 hne)
    have holdest := txQueue_eq_cons_txShift (s := s.appended x) hhead hcount
    exact ⟨_, _, enqueue_idle hroom hidle, holdest.symm.trans (txQueue_appended hroom), rfl⟩

/-- Settles O44: ignored, or settled as `txComplete`, which drains the queue by one byte or finds it empty. -/
theorem transmitComplete : Obligations.TransmitComplete := by
  intro s hhead
  refine ⟨fun hignored => ?ignored, fun halive hactive => ?sent⟩
  case ignored =>
    cases hfault : s.fault.valid with
    | true => exact inputEvent_of_faulted hfault (by decide)
    | false =>
      rw [inputEvent_txComplete hfault]
      exact txComplete_spurious (hignored.resolve_left (by rw [hfault]; decide))
  case sent =>
    rw [inputEvent_txComplete halive]
    refine ⟨fun hempty => txComplete_drained hactive (txQueue_eq_nil.1 hempty), fun b q hqueue => ?_⟩
    have hcount : 0 < s.txCount := by
      rw [← txQueue_length, hqueue]
      exact Nat.succ_pos _
    obtain ⟨rfl, rfl⟩ := List.cons.inj (hqueue.symm.trans (txQueue_eq_cons_txShift hhead hcount))
    rw [txComplete_shifts hactive hcount]
    exact ⟨rfl, rfl⟩

end Sys2Proof.Transmit

/-! PROOF. Encodings (30_encoding.md, R100 to R111): the rows of the opcode map against the encoder. -/

namespace Sys2Proof

open Sys2Proof.Machine

/-! ## Decoding what an instruction is encoded as -/

/-- An opcode byte with as many operand bytes as its row's format has, and bytes after it. -/
theorem decode_of_row {op : Byte} {r : OpRow} {opd : List Byte} {i : Instr} (hrow : findRow op = some r)
    (hlen : opd.length = r.format.length - 1) (hi : r.build (BitVec.ofNat 32 (leNat opd)) = i) (rest : List Byte) :
    decode (op :: opd ++ rest) = .ok (i, rest) := by
  have henough : ¬ (opd ++ rest).length < opd.length := by
    rw [List.length_append]
    omega
  simp only [List.cons_append, decode, hrow, ← hlen, if_neg henough, List.take_left, List.drop_left, hi]

/-- An instruction without an operand. -/
theorem decode_opcode {op : Byte} {i : Instr} (hrow : findRow op = some ⟨op, .n, fun _ => i⟩) (rest : List Byte) :
    decode ([op] ++ rest) = .ok (i, rest) :=
  decode_of_row (opd := []) hrow rfl rfl rest

/-- The low 16 bits of the operand's number are the word it was written from (R102). -/
theorem setWidth_leNat_leBytes (v : Word) : (BitVec.ofNat 32 (leNat (leBytes 2 v.toNat))).setWidth 16 = v := by
  rw [leNat_leBytes, Nat.mod_eq_of_lt (show v.toNat < 256 ^ 2 from v.isLt), BitVec.setWidth_ofNat_of_le (by decide),
    BitVec.ofNat_toNat, BitVec.setWidth_eq]

/-- An instruction with a 16-bit operand, in any of the four formats that have one. -/
theorem decode_word {op : Byte} {format : Format} {mk : Word → Instr} {v : Word}
    (hrow : findRow op = some ⟨op, format, fun w => mk (w.setWidth 16)⟩) (hlen : format.length = 3)
    (rest : List Byte) : decode (op :: leBytes 2 v.toNat ++ rest) = .ok (mk v, rest) :=
  decode_of_row hrow (by rw [leBytes_length, hlen]) (congrArg mk (setWidth_leNat_leBytes v)) rest

theorem decode_pushiB (v : Byte) (rest : List Byte) :
    decode (encode (.pushiB v) ++ rest) = .ok (.pushiB v, rest) := by
  refine decode_of_row (opd := [v]) rfl rfl (congrArg Instr.pushiB ?_) rest
  rw [leNat, leNat, Nat.mul_zero, Nat.add_zero, BitVec.setWidth_ofNat_of_le (by decide), BitVec.ofNat_toNat,
    BitVec.setWidth_eq]

theorem decode_pushiD (v : DWord) (rest : List Byte) :
    decode (encode (.pushiD v) ++ rest) = .ok (.pushiD v, rest) := by
  refine decode_of_row (opd := leBytes 4 v.toNat) rfl rfl (congrArg Instr.pushiD ?_) rest
  rw [leNat_leBytes, Nat.mod_eq_of_lt (show v.toNat < 256 ^ 4 from v.isLt), BitVec.ofNat_toNat, BitVec.setWidth_eq]

/-- Settles O3, by the shape of the operand: none, a word, and the byte and the double word of PUSHI. -/
theorem decodeInvertsEncode : Obligations.DecodeInvertsEncode := by
  intro i rest
  cases i with
  | pushiB v => exact decode_pushiB v rest
  | pushiD v => exact decode_pushiD v rest
  | pushiW v | pushfB v | pushfW v | pushfD v | pushaB v | pushaW v | pushaD v | popfB v | popfW v | popfD v
  | popaB v | popaW v | popaD v | jgzB v | jgzW v | jgzD v | jgezB v | jgezW v | jgezD v | jezB v | jezW v
  | jezD v | jnezB v | jnezW v | jnezD v | jmp v | call v | ret v | ecall v => exact decode_word rfl rfl rest
  | _ => exact decode_opcode rfl rest

/-! ## Opcode bytes and lengths (R103, R111) -/

/-- The opcode byte of an encoding has the encoding's length in the table `LEN`. -/
theorem lenOf_head_encode {i : Instr} {op : Byte} (h : (encode i).head? = some op) :
    lenOf op = some (encode i).length := by
  have hspec : ∃ rest, encode i = op :: rest ∧ lenOf op = some (rest.length + 1) := by
    cases i <;> cases h <;> exact ⟨_, rfl, rfl⟩
  obtain ⟨rest, henc, hlen⟩ := hspec
  rw [henc, hlen, List.length_cons]

/-- What a row builds is encoded with the row's opcode byte, in the length of the row's format. -/
theorem encode_build {r : OpRow} (hr : r ∈ opRows) (v : DWord) :
    (encode (r.build v)).head? = some r.op ∧ (encode (r.build v)).length = r.format.length := by
  have hall : ∀ r ∈ opRows, (encode (r.build v)).head? = some r.op ∧
      (encode (r.build v)).length = r.format.length := by
    simp [opRows, stackRows, aluRows, controlRows, encode, Format.length, leBytes_length]
  exact hall r hr

theorem findRow_eq_some {op : Byte} {r : OpRow} (h : findRow op = some r) : r ∈ opRows ∧ r.op = op :=
  ⟨List.mem_of_find?_eq_some h, by simpa using List.find?_some h⟩

/-- Every assigned opcode byte begins an instruction, of the length of the table. -/
theorem exists_encode_of_lenOf {op : Byte} {len : Nat} (h : lenOf op = some len) :
    ∃ i, (encode i).head? = some op ∧ (encode i).length = len := by
  obtain ⟨r, hrow, rfl⟩ := Option.map_eq_some_iff.1 h
  obtain ⟨hmem, rfl⟩ := findRow_eq_some hrow
  exact ⟨r.build 0, encode_build hmem 0⟩

/-- A byte that begins no instruction is unassigned (R111). -/
theorem lenOf_eq_none {op : Byte} (h : ∀ i, (encode i).head? ≠ some op) : lenOf op = none := by
  cases hlen : lenOf op with
  | none => rfl
  | some len =>
    obtain ⟨i, hi, _⟩ := exists_encode_of_lenOf hlen
    exact absurd hi (h i)

/-- Settles O4: the table is finite, and so are the byte values. -/
theorem opcodeMapIsComplete : Obligations.OpcodeMapIsComplete := by
  refine ⟨⟨rfl, by decide⟩, by decide, rfl, rfl, rfl, rfl, rfl, rfl, rfl, rfl, rfl⟩

end Sys2Proof

/-! PROOF. What an instruction can do in any state, said once: the registers of its thread and memory inside the
arena, and beyond them the bookkeeping of the calls and the devices (R38, R64, R70, R371). -/

namespace Sys2Proof.Machine

/-! ## Writes inside a storage -/

/-- From `m` to `m'` the canonical form and the capacity are kept, and every byte that was written stays so. -/
structure Memory.Kept (cap : Nat) (m m' : Memory) : Prop where
  wf : Memory.wf m = true → Memory.wf m' = true
  within : Memory.within cap m = true → Memory.within cap m' = true
  defined : ∀ a, Memory.defined m a → Memory.defined m' a

theorem Memory.Kept.refl (cap : Nat) (m : Memory) : Memory.Kept cap m m := ⟨id, id, fun _ => id⟩

theorem Memory.Kept.trans {cap : Nat} {m m' m'' : Memory} (h : Memory.Kept cap m m')
    (h' : Memory.Kept cap m' m'') : Memory.Kept cap m m'' :=
  ⟨h'.wf ∘ h.wf, h'.within ∘ h.within, fun a => h'.defined a ∘ h.defined a⟩

theorem Memory.kept_putAll {cap a : Nat} {m : Memory} {bs : List Byte} (h : a + bs.length ≤ cap) :
    Memory.Kept cap m (Memory.putAll m a bs) :=
  ⟨Memory.wf_putAll _ _ _, Memory.within_putAll _ _ _ _ h, fun x => Memory.isSome_get?_putAll _ _ _ x⟩

/-! ## Operations on one thread -/

/-- The stack pointer of thread `t` lies in its stack. -/
def State.SpInside (s : State) (t : Nat) : Prop :=
  (s.thread t).bottom.toNat ≤ (s.thread t).sp.toNat ∧ (s.thread t).sp.toNat ≤ (s.thread t).top.toNat

/-- From `s` to `s'` only memory inside the arena and `pc`, `sp` and `fp` of thread `t` differ, and `sp` does not
leave its stack. -/
structure LocalTo (t : Nat) (s s' : State) : Prop where
  frame : s' = { s with mem := s'.mem, threads := s'.threads }
  mem : Memory.Kept s.params.memCap s.mem s'.mem
  length : s'.threads.length = s.threads.length
  others : ∀ u, u ≠ t → s'.thread u = s.thread u
  bottom : (s'.thread t).bottom = (s.thread t).bottom
  top : (s'.thread t).top = (s.thread t).top
  free : (s'.thread t).free = (s.thread t).free
  sp : s.SpInside t → s'.SpInside t

namespace LocalTo

variable {t : Nat} {s s' s'' : State}

theorem refl (t : Nat) (s : State) : LocalTo t s s :=
  ⟨rfl, .refl _ _, rfl, fun _ _ => rfl, rfl, rfl, rfl, id⟩

theorem params (h : LocalTo t s s') : s'.params = s.params := by rw [h.frame]

theorem trans (h : LocalTo t s s') (h' : LocalTo t s' s'') : LocalTo t s s'' where
  frame := by
    rw [h'.frame, h.frame]
  mem := h.mem.trans (h.params ▸ h'.mem)
  length := h'.length.trans h.length
  others u hu := (h'.others u hu).trans (h.others u hu)
  bottom := h'.bottom.trans h.bottom
  top := h'.top.trans h.top
  free := h'.free.trans h.free
  sp := h'.sp ∘ h.sp

/-- The same change of memory and records, made to a state that differs in other fields. -/
theorem rebase {s0 : State} (h : LocalTo t s s') (hmem : s0.mem = s.mem) (hthreads : s0.threads = s.threads)
    (hparams : s0.params = s.params) : LocalTo t s0 { s0 with mem := s'.mem, threads := s'.threads } := by
  have hthread : ∀ u, s0.thread u = s.thread u := fun u => by rw [State.thread, hthreads, State.thread]
  refine ⟨rfl, hmem ▸ hparams ▸ h.mem, hthreads ▸ h.length, fun u hu => ?_, ?_, ?_, ?_, ?_⟩
  · exact (h.others u hu).trans (hthread u).symm
  · exact h.bottom.trans (congrArg Thread.bottom (hthread t).symm)
  · exact h.top.trans (congrArg Thread.top (hthread t).symm)
  · exact h.free.trans (congrArg Thread.free (hthread t).symm)
  · rw [State.SpInside, hthread]
    exact h.sp

theorem exists_eq (h : LocalTo t s s') : ∃ m ts, s' = { s with mem := m, threads := ts } := ⟨_, _, h.frame⟩

theorem lt_length (h : LocalTo t s s') (hl : t < s.threads.length) : t < s'.threads.length := by
  rwa [h.length]

end LocalTo

section
variable {n t : Nat} {s s' : State}

theorem localTo_writeBytes {a : Nat} {bs : List Byte} (h : a + bs.length ≤ s.params.memCap) :
    LocalTo t s (s.writeBytes a bs) :=
  ⟨rfl, Memory.kept_putAll h, rfl, fun _ _ => rfl, rfl, rfl, rfl, id⟩

theorem localTo_memWrite {a : Addr} {v : BitVec n} (h : memWrite a v s = .ok s') : LocalTo t s s' := by
  obtain ⟨hcap, rfl⟩ := memWrite_eq_ok.1 h
  exact localTo_writeBytes (by rwa [leBytes_length])

variable (hl : t < s.threads.length)
include hl

/-- New registers for a thread, the stack pointer in its stack. -/
theorem localTo_setThread {pc sp fp : Addr}
    (hsp : s.SpInside t → (s.thread t).bottom.toNat ≤ sp.toNat ∧ sp.toNat ≤ (s.thread t).top.toNat) :
    LocalTo t s (s.setThread t { s.thread t with pc := pc, sp := sp, fp := fp }) := by
  have hth := thread_setThread_same s t { s.thread t with pc := pc, sp := sp, fp := fp } hl
  refine ⟨rfl, .refl _ _, List.length_set, fun u hu => thread_setThread_other s t u _ hu, ?_, ?_, ?_, ?_⟩
  · rw [hth]
  · rw [hth]
  · rw [hth]
  · rw [State.SpInside, State.SpInside, hth]
    exact hsp

theorem localTo_setPc (v : Addr) : LocalTo t s (setPc t v s) := localTo_setThread hl id

theorem localTo_advance (len : Nat) : LocalTo t s (advance t len s) := localTo_setPc hl _

theorem localTo_setFp (v : Addr) : LocalTo t s (setFp t v s) := localTo_setThread hl id

theorem localTo_setSp {v : Addr}
    (hsp : s.SpInside t → (s.thread t).bottom.toNat ≤ v.toNat ∧ v.toNat ≤ (s.thread t).top.toNat) :
    LocalTo t s (setSp t v s) := localTo_setThread hl hsp

/-- A push stays below `top` (R36). -/
theorem localTo_push {v : BitVec n} (h : push t v s = .ok s') : LocalTo t s s' := by
  obtain ⟨hroom, hcap, rfl⟩ := push_eq_ok.1 h
  have htop := (s.thread t).top.isLt
  have hsp := toNat_add_k (a := (s.thread t).sp) (k := n / 8) (by omega)
  have hwrite : LocalTo t s (s.writeBytes (s.thread t).sp.toNat (leBytes (n / 8) v.toNat)) :=
    localTo_writeBytes (by rwa [leBytes_length])
  refine hwrite.trans (localTo_setSp (s := s.writeBytes _ _) hl fun ⟨hlow, _⟩ => ?_)
  simp only [thread_writeBytes, hsp] at hlow ⊢
  omega

/-- A pop stays above `bottom` (R37). -/
theorem localTo_pop {v : BitVec n} (h : pop n t s = .ok (v, s')) : LocalTo t s s' := by
  obtain ⟨hbot, _, _, rfl⟩ := pop_eq_ok.1 h
  have hsp := toNat_sub_k (a := (s.thread t).sp) (k := n / 8) (by omega)
  refine localTo_setSp hl fun ⟨_, hhigh⟩ => ?_
  omega

theorem localTo_pushFrame {ret savedFp : Word} (h : pushFrame t ret savedFp s = .ok s') : LocalTo t s s' := by
  obtain ⟨s1, s2, hret, hfp, rfl⟩ := pushFrame_eq_ok.1 h
  have h1 := localTo_push hl hret
  have h2 := localTo_push (h1.lt_length hl) hfp
  exact (h1.trans h2).trans (localTo_setFp (h2.lt_length (h1.lt_length hl)) _)

theorem localTo_pushFrom {ea : Addr} {len : Nat} (h : pushFrom n t ea len s = .ok s') : LocalTo t s s' := by
  obtain ⟨v, s1, _, hpush, rfl⟩ := pushFrom_eq_ok.1 h
  have h1 := localTo_push hl hpush
  exact h1.trans (localTo_advance (h1.lt_length hl) len)

theorem localTo_popInto {ea : Addr} {len : Nat} (h : popInto n t ea len s = .ok s') : LocalTo t s s' := by
  obtain ⟨v, s1, s2, hpop, hwrite, rfl⟩ := popInto_eq_ok.1 h
  have h1 := localTo_pop hl hpop
  have h2 : LocalTo t s1 s2 := localTo_memWrite hwrite
  exact (h1.trans h2).trans (localTo_advance (h2.lt_length (h1.lt_length hl)) len)

/-- Leaving a function: the frame below `fp` and the parameters are dropped, and `sp` stays in the stack if `fp`
was there (R214). -/
theorem localTo_unwind {n16 : Word} {newFp ret : Addr} (hbot : (s.thread t).bottom.toNat + 4 ≤ (s.thread t).fp.toNat)
    (htop : (s.thread t).fp.toNat ≤ (s.thread t).top.toNat) (h : unwind t n16 newFp ret s = .ok s') :
    LocalTo t s s' := by
  rw [unwind_ok hl (by omega)] at h
  split at h
  case isTrue => cases h
  case isFalse henough =>
    cases h
    refine localTo_setThread hl fun _ => ?_
    have hbase : ((s.thread t).fp - 4).toNat = (s.thread t).fp.toNat - 4 := toNat_sub_k (k := 4) (by omega)
    have hsp : ((s.thread t).fp - 4 - n16).toNat = (s.thread t).fp.toNat - 4 - n16.toNat := by
      rw [BitVec.toNat_sub_of_le (by rw [BitVec.le_def, hbase]; omega), hbase]
    rw [hsp]
    omega

end

/-! ## The meanings that only move their thread -/

/-- The outcome `o` is an operation settled in `s`, which moves the current thread and nothing else. -/
def RunsLocally (o : Host.Outcome State Fault Refusal) (s : State) : Prop :=
  ∃ op, o = runInstr s op ∧ ∀ t s', s.cur? = some t → op t = .ok s' → LocalTo t s s'

section
variable (n : Nat) (s : State)

theorem pushImm_local (v : BitVec n) (len : Nat) : RunsLocally (pushImm v len s) s := by
  refine ⟨_, rfl, fun t s' hcur hop => ?_⟩
  obtain ⟨s1, hpush, h⟩ := bind_eq_ok.1 hop
  cases h
  have h1 := localTo_push (cur?_lt hcur) hpush
  exact h1.trans (localTo_advance (h1.lt_length (cur?_lt hcur)) len)

theorem pushSlot_local (off : Word) : RunsLocally (pushSlot n off s) s :=
  ⟨_, rfl, fun _ _ hcur => localTo_pushFrom (cur?_lt hcur)⟩

theorem pushAbs_local (addr : Addr) : RunsLocally (pushAbs n addr s) s :=
  ⟨_, rfl, fun _ _ hcur => localTo_pushFrom (cur?_lt hcur)⟩

theorem popSlot_local (off : Word) : RunsLocally (popSlot n off s) s :=
  ⟨_, rfl, fun _ _ hcur => localTo_popInto (cur?_lt hcur)⟩

theorem popAbs_local (addr : Addr) : RunsLocally (popAbs n addr s) s :=
  ⟨_, rfl, fun _ _ hcur => localTo_popInto (cur?_lt hcur)⟩

theorem pushDeref_local : RunsLocally (pushDeref n s) s := by
  refine ⟨_, rfl, fun t s' hcur hop => ?_⟩
  obtain ⟨⟨a, s1⟩, hpop, h⟩ := bind_eq_ok.1 hop
  have h1 := localTo_pop (cur?_lt hcur) hpop
  exact h1.trans (localTo_pushFrom (h1.lt_length (cur?_lt hcur)) h)

theorem popDeref_local : RunsLocally (popDeref n s) s := by
  refine ⟨_, rfl, fun t s' hcur hop => ?_⟩
  obtain ⟨⟨a, s1⟩, hpop, h⟩ := bind_eq_ok.1 hop
  have h1 := localTo_pop (cur?_lt hcur) hpop
  exact h1.trans (localTo_popInto (h1.lt_length (cur?_lt hcur)) h)

theorem binop_local (f : BitVec n → BitVec n → Except FaultCode (BitVec n)) : RunsLocally (binop f s) s := by
  refine ⟨_, rfl, fun t s' hcur hop => ?_⟩
  obtain ⟨⟨b, s1⟩, hpopB, hop1⟩ := bind_eq_ok.1 hop
  obtain ⟨⟨a, s2⟩, hpopA, hop2⟩ := bind_eq_ok.1 hop1
  obtain ⟨r, _, hop3⟩ := bind_eq_ok.1 hop2
  obtain ⟨s3, hpush, hop4⟩ := bind_eq_ok.1 hop3
  cases hop4
  have hl := cur?_lt hcur
  have h1 := localTo_pop hl hpopB
  have h2 := h1.trans (localTo_pop (h1.lt_length hl) hpopA)
  have h3 := h2.trans (localTo_push (h2.lt_length hl) hpush)
  exact h3.trans (localTo_advance (h3.lt_length hl) _)

theorem condJump_local (test : BitVec n → Bool) (addr : Addr) : RunsLocally (condJump n test addr s) s := by
  refine ⟨_, rfl, fun t s' hcur hop => ?_⟩
  obtain ⟨⟨v, s1⟩, hpop, h⟩ := bind_eq_ok.1 hop
  have h1 := localTo_pop (cur?_lt hcur) hpop
  have hl := h1.lt_length (cur?_lt hcur)
  cases h
  cases test v with
  | true => exact h1.trans (localTo_setPc hl addr)
  | false => exact h1.trans (localTo_advance hl _)

theorem execJmp_local (addr : Addr) : RunsLocally (execJmp addr s) s := by
  refine ⟨_, rfl, fun t s' hcur hop => ?_⟩
  cases hop
  exact localTo_setPc (cur?_lt hcur) addr

theorem execCall_local (addr : Addr) : RunsLocally (execCall addr s) s := by
  refine ⟨_, rfl, fun t s' hcur hop => ?_⟩
  simp only at hop
  split at hop
  case isTrue => cases hop
  case isFalse =>
    obtain ⟨s1, hframe, h⟩ := bind_eq_ok.1 hop
    cases h
    have h1 := localTo_pushFrame (cur?_lt hcur) hframe
    exact h1.trans (localTo_setPc (h1.lt_length (cur?_lt hcur)) addr)

end

end Sys2Proof.Machine

/-! PROOF. The instructions that do more than move their thread: the natives, SYNC, ASYNC and the end of an
activation; and the one inversion of `exec` that says what any instruction can do. -/

namespace Sys2Proof.Machine

/-! ## What the natives do beside the frame (R232 to R235) -/

/-- What a native does to the devices: the LED, the callback, or the transmit ring, which may also be busy. -/
inductive DeviceEffect (s : State) : State → Prop
  | led (v : Led) : DeviceEffect s (driveLed v s)
  | callback (obj method : Word) : DeviceEffect s { s with cbObj := obj, cbMethod := method, cbValid := true }
  | queued {x : List Byte} {q : State} (h : enqueue x s = some q) : DeviceEffect s q
  | busy : DeviceEffect s s

/-- The devices do not look at memory and records. -/
theorem DeviceEffect.of_with_mem_threads {s q : State} {m : Memory} {ts : List Thread}
    (h : DeviceEffect { s with mem := m, threads := ts } q) :
    ∃ q0, DeviceEffect s q0 ∧ q = { q0 with mem := m, threads := ts } := by
  cases h with
  | led v => exact ⟨_, .led v, rfl⟩
  | callback obj method => exact ⟨_, .callback obj method, rfl⟩
  | queued h =>
    rw [enqueue_with_mem_threads] at h
    obtain ⟨q0, hq0, rfl⟩ := Option.map_eq_some_iff.1 h
    exact ⟨q0, .queued hq0, rfl⟩
  | busy => exact ⟨s, .busy, rfl⟩

theorem DeviceEffect.same_store {s q : State} (h : DeviceEffect s q) :
    q.mem = s.mem ∧ q.threads = s.threads ∧ q.params = s.params := by
  cases h with
  | led v => exact ⟨rfl, rfl, rfl⟩
  | callback obj method => exact ⟨rfl, rfl, rfl⟩
  | queued h =>
    rw [enqueue_frame h]
    exact ⟨rfl, rfl, rfl⟩
  | busy => exact ⟨rfl, rfl, rfl⟩

/-- A native acts on its devices and then at most writes its result byte. -/
theorem runNative_effect {nat : Native} {fp : Addr} {s s' : State} (t : Nat) (h : runNative nat fp s = .ok s') :
    ∃ q, DeviceEffect s q ∧ LocalTo t q s' := by
  cases nat with
  | toggleLed =>
    cases h
    exact ⟨_, .led _, .refl _ _⟩
  | setLed =>
    obtain ⟨v, _, h⟩ := bind_eq_ok.1 h
    cases h
    exact ⟨_, .led _, .refl _ _⟩
  | registerCallback =>
    obtain ⟨m, _, h⟩ := bind_eq_ok.1 h
    obtain ⟨o, _, h⟩ := bind_eq_ok.1 h
    cases h
    exact ⟨_, .callback o m, .refl _ _⟩
  | transmit =>
    obtain ⟨a, _, h⟩ := bind_eq_ok.1 h
    obtain ⟨l, _, h⟩ := bind_eq_ok.1 h
    split at h
    · cases h
    · split at h
      case h_1 q hq => exact ⟨q, .queued hq, localTo_memWrite h⟩
      case h_2 => exact ⟨s, .busy, localTo_memWrite h⟩

/-- A native has at least the bytes that its return drops (R231). -/
theorem drops_le_needs (nat : Native) : nat.drops ≤ nat.needs := by cases nat <;> decide

/-! ## What an instruction does beside its thread -/

/-- The state in which a SYNC has begun its activation and filled in the metadata of bin `b0` (R240). -/
def State.syncBegun (s : State) (t b0 : Nat) (obj method : Word) : State :=
  { s with
    bins := s.bins.set b0 { s.bin b0 with method := method, argSize := 0, origin := some t }
    actStack := { kind := .sync, thread := t, savedFp := (s.thread t).fp, obj := obj } :: s.actStack
    syncWait := true
    outputs := s.outputs ++ [.schedSync obj method t] }

/-- What an instruction on thread `t` does to `s` beside memory and the registers of its thread. -/
inductive Bookkeeping (s : State) (t : Nat) : Instr → State → Prop
  /-- Nothing. -/
  | none (i : Instr) : Bookkeeping s t i s
  /-- A native acts on a device (R232 to R235). -/
  | device {id : Word} {q : State} (h : DeviceEffect s q) : Bookkeeping s t (.ecall id) q
  /-- A SYNC begins its activation and fills in the metadata of a bin that stays free (R240). -/
  | syncBegin {obj method : Word} {b0 : Nat} {rest : List Nat} (hbin : s.binFree = b0 :: rest)
      (hdepth : s.actStack.length ≠ s.params.maxActDepth) :
      Bookkeeping s t .sync (s.syncBegun t b0 obj method)
  /-- An ASYNC issues its call (R243). -/
  | issue {data : List Byte} {method obj : Word} {baseline deadline : DWord} {q : State}
      (h : issueAsync data method (some t) obj baseline deadline s = .ok q)
      (hsize : data.length ≤ s.params.binCap) : Bookkeeping s t .async q
  /-- The activation of a SYNC ends (R214). -/
  | syncEnd {n16 : Word} {a : Activation} {rest : List Activation} (hact : s.actStack = a :: rest)
      (hkind : a.kind = .sync) : Bookkeeping s t (.ret n16)
        { s with actStack := rest, outputs := s.outputs ++ [.syncDone a.obj] }
  /-- A root activation ends and its thread goes back to the pool (R214). -/
  | rootEnd {n16 : Word} {a : Activation} {rest : List Activation} (hact : s.actStack = a :: rest)
      (hkind : a.kind = .root) : Bookkeeping s t (.ret n16)
        (emit (.activationDone a.thread) { releaseThread a.thread s with actStack := rest })

/-- What instruction `i` does on thread `t` from `s` to `s'`, when it takes no fault. -/
def Effect (i : Instr) (s : State) (t : Nat) (s' : State) : Prop :=
  ∃ s0, Bookkeeping s t i s0 ∧ LocalTo t s0 s'

/-- The outcome `o` of `i` in `s` is an operation settled, whose success has an effect of `i`. -/
def HasEffect (i : Instr) (o : Host.Outcome State Fault Refusal) (s : State) : Prop :=
  ∃ op, o = runInstr s op ∧ ∀ t s', s.cur? = some t → op t = .ok s' → Effect i s t s'

theorem hasEffect_of_local {i : Instr} {o : Host.Outcome State Fault Refusal} {s : State} (h : RunsLocally o s) :
    HasEffect i o s := by
  obtain ⟨op, hop, hlocal⟩ := h
  exact ⟨op, hop, fun t s' hcur h => ⟨s, .none i, hlocal t s' hcur h⟩⟩

theorem hasEffect_of_binop {i : Instr} {s : State} {n : Nat} {f : BitVec n → BitVec n → Except FaultCode (BitVec n)}
    (hi : exec i s = binop f s) : HasEffect i (exec i s) s :=
  hasEffect_of_local (hi ▸ binop_local n s f)

theorem hasEffect_of_total {i : Instr} {s : State} {n : Nat} {alu : BitVec n → BitVec n → BitVec n}
    (hi : exec i s = binop (fun a b => .ok (alu a b)) s) : HasEffect i (exec i s) s :=
  hasEffect_of_binop hi

/-! ## ECALL (R230) -/

section
variable {t : Nat} {s s1 s2 s' : State}

/-- The frame pointer of a frame just pushed is four above the old stack pointer (R35). -/
theorem pushFrame_fp (hl : t < s.threads.length) {ret savedFp : Word} (h : pushFrame t ret savedFp s = .ok s1) :
    (s1.thread t).fp = (s.thread t).sp + 4 := by
  obtain ⟨sa, sb, hret, hfp, rfl⟩ := pushFrame_eq_ok.1 h
  have hla := (localTo_push hl hret).lt_length hl
  have hlb := (localTo_push hla hfp).lt_length hla
  have hspa : (sa.thread t).sp = (s.thread t).sp + 2 := by
    obtain ⟨_, _, rfl⟩ := push_eq_ok.1 hret
    exact congrArg Thread.sp (thread_setSp (s := s.writeBytes _ _) hl)
  have hspb : (sb.thread t).sp = (sa.thread t).sp + 2 := by
    obtain ⟨_, _, rfl⟩ := push_eq_ok.1 hfp
    exact congrArg Thread.sp (thread_setSp (s := sa.writeBytes _ _) hla)
  have hfp : ((setFp t (sb.thread t).sp sb).thread t).fp = (sb.thread t).sp :=
    congrArg Thread.fp (thread_setThread_same _ _ _ hlb)
  rw [hfp, hspb, hspa, BitVec.add_assoc]
  rfl

/-- The return of a native from a frame just above the parameters: with them dropped, `sp` is in the stack. -/
theorem localTo_leaveNative (hl : t < s.threads.length) (h : LocalTo t s s') {drops : Nat} {savedFp ret fp : Addr}
    (hfp : fp = (s.thread t).sp + 4)
    (hdrops : (s.thread t).bottom.toNat + drops ≤ (s.thread t).sp.toNat) :
    LocalTo t s (setPc t ret (setFp t savedFp (setSp t (fp - 4 - BitVec.ofNat 16 drops) s'))) := by
  have hl1 := h.lt_length hl
  have hsp : (fp - 4 - BitVec.ofNat 16 drops).toNat = (s.thread t).sp.toNat - drops := by
    rw [hfp, BitVec.add_sub_cancel, toNat_sub_k (by omega)]
  have hset : LocalTo t s (setSp t (fp - 4 - BitVec.ofNat 16 drops) s') := by
    refine {
      frame := by
        rw [h.frame]
        rfl
      mem := h.mem
      length := List.length_set.trans h.length
      others := fun u hu => (thread_setThread_other _ _ _ _ hu).trans (h.others u hu)
      bottom := (congrArg Thread.bottom (thread_setSp hl1)).trans h.bottom
      top := (congrArg Thread.top (thread_setSp hl1)).trans h.top
      free := (congrArg Thread.free (thread_setSp hl1)).trans h.free
      sp := fun ⟨_, hhigh⟩ => ?_ }
    rw [State.SpInside, thread_setSp hl1]
    simp only [hsp, h.bottom, h.top]
    omega
  have hl2 := hset.lt_length hl
  have hset2 := hset.trans (localTo_setFp hl2 savedFp)
  exact hset2.trans (localTo_setPc (hset2.lt_length hl) ret)

theorem execEcall_effect (id : Word) (s : State) : HasEffect (.ecall id) (execEcall id s) s := by
  refine ⟨_, rfl, fun t s' hcur hop => ?_⟩
  have hl := cur?_lt hcur
  simp only at hop
  split at hop
  case h_1 => cases hop
  case h_2 nat _ =>
    split at hop
    case isTrue => cases hop
    case isFalse hneed =>
      split at hop
      case isTrue => cases hop
      case isFalse hroom =>
        obtain ⟨s1, hframe, hop⟩ := bind_eq_ok.1 hop
        obtain ⟨s2, hnative, hop⟩ := bind_eq_ok.1 hop
        obtain ⟨savedFp, _, hop⟩ := bind_eq_ok.1 hop
        obtain ⟨ret, _, hop⟩ := bind_eq_ok.1 hop
        cases hop
        have h1 := localTo_pushFrame hl hframe
        obtain ⟨q1, hq1, h2⟩ := runNative_effect t hnative
        rw [h1.frame] at hq1
        obtain ⟨q, hq, rfl⟩ := hq1.of_with_mem_threads
        obtain ⟨hmem, hthreads, hparams⟩ := hq.same_store
        have hbefore : q.thread t = s.thread t := by rw [State.thread, hthreads, State.thread]
        have hall : LocalTo t q s2 := (h1.rebase hmem hthreads hparams).trans h2
        have hdrops := drops_le_needs nat
        exact ⟨q, .device hq, localTo_leaveNative (by rwa [hthreads]) hall
          (by rw [pushFrame_fp hl hframe, hbefore]) (by rw [hbefore]; omega)⟩

end

/-! ## SYNC (R240) -/

theorem execSync_effect (s : State) : HasEffect .sync (execSync s) s := by
  refine ⟨_, rfl, fun t s' hcur hop => ?_⟩
  have hl := cur?_lt hcur
  obtain ⟨⟨obj, s1⟩, hobj, hop⟩ := bind_eq_ok.1 hop
  obtain ⟨⟨method, s2⟩, hmethod, hop⟩ := bind_eq_ok.1 hop
  have h1 := localTo_pop hl hobj
  have h2 := h1.trans (localTo_pop (h1.lt_length hl) hmethod)
  obtain ⟨m2, ts2, rfl⟩ := h2.exists_eq
  simp only at hop
  split at hop
  case h_1 => cases hop
  case h_2 b0 rest hbin =>
    split at hop
    case isTrue => cases hop
    case isFalse hdepth =>
      split at hop
      case isTrue => cases hop
      case isFalse =>
        obtain ⟨s4, hframe, hop⟩ := bind_eq_ok.1 hop
        cases hop
        have h4 := localTo_pushFrame (s := State.setBin _ _ _) (h2.lt_length hl) hframe
        have h5 := h4.trans (localTo_setPc (h4.lt_length (h2.lt_length hl)) method)
        obtain ⟨m4, ts4, rfl⟩ := h4.exists_eq
        exact ⟨_, .syncBegin hbin hdepth,
          (h2.rebase (s0 := s.syncBegun t b0 obj method) rfl rfl rfl).trans (h5.rebase rfl rfl rfl)⟩

/-! ## ASYNC (R242, R243) -/

section
variable {data : List Byte} {method : Addr} {origin : Option Nat} {obj : Word} {baseline deadline : DWord}
  {s q : State}

/-- Issuing a call does not look at memory and records. -/
theorem issueAsync_with_mem_threads {m : Memory} {ts : List Thread}
    (h : issueAsync data method origin obj baseline deadline { s with mem := m, threads := ts } = .ok q) :
    ∃ q0, issueAsync data method origin obj baseline deadline s = .ok q0 ∧
      q = { q0 with mem := m, threads := ts } := by
  obtain ⟨b, s1, halloc, rfl⟩ := issueAsync_eq_ok.1 h
  obtain ⟨rest, hbin, rfl⟩ := allocBin_eq_ok.1 halloc
  exact ⟨_, issueAsync_eq_ok.2 ⟨b, _, allocBin_eq_ok.2 ⟨rest, hbin, rfl⟩, rfl⟩, rfl⟩

/-- Issuing a call changes the bins and the outputs only (R243). -/
theorem issueAsync_frame (h : issueAsync data method origin obj baseline deadline s = .ok q) :
    q = { s with bins := q.bins, binFree := q.binFree, outputs := q.outputs } := by
  obtain ⟨b, s1, halloc, rfl⟩ := issueAsync_eq_ok.1 h
  obtain ⟨rest, _, rfl⟩ := allocBin_eq_ok.1 halloc
  rfl

end

theorem execAsync_effect (s : State) : HasEffect .async (execAsync s) s := by
  refine ⟨_, rfl, fun t s' hcur hop => ?_⟩
  have hl := cur?_lt hcur
  obtain ⟨⟨argSize, s1⟩, hsize, hop⟩ := bind_eq_ok.1 hop
  obtain ⟨⟨baseline, s2⟩, hbaseline, hop⟩ := bind_eq_ok.1 hop
  obtain ⟨⟨deadline, s3⟩, hdeadline, hop⟩ := bind_eq_ok.1 hop
  obtain ⟨⟨obj, s4⟩, hobj, hop⟩ := bind_eq_ok.1 hop
  obtain ⟨⟨method, s5⟩, hmethod, hop⟩ := bind_eq_ok.1 hop
  have h1 := localTo_pop hl hsize
  have h2 := h1.trans (localTo_pop (h1.lt_length hl) hbaseline)
  have h3 := h2.trans (localTo_pop (h2.lt_length hl) hdeadline)
  have h4 := h3.trans (localTo_pop (h3.lt_length hl) hobj)
  have h5 := h4.trans (localTo_pop (h4.lt_length hl) hmethod)
  simp only at hop
  split at hop
  case isTrue => cases hop
  case isFalse hcap =>
    split at hop
    case isTrue => cases hop
    case isFalse hargs =>
      obtain ⟨s6, hissue, hop⟩ := bind_eq_ok.1 hop
      cases hop
      have hcap' : (s5.readBytes ((s5.thread t).sp.toNat - argSize.toNat) argSize.toNat).length ≤ s.params.binCap := by
        rw [readBytes_length, ← h5.params]
        omega
      generalize s5.readBytes ((s5.thread t).sp.toNat - argSize.toNat) argSize.toNat = data at hissue hcap'
      rw [h5.frame] at hissue
      obtain ⟨q, hq, rfl⟩ := issueAsync_with_mem_threads hissue
      have hframe := issueAsync_frame hq
      have h6 := h5.rebase (s0 := q) (by rw [hframe]) (by rw [hframe]) (by rw [hframe])
      have hl6 := h5.lt_length hl
      have hsp := localTo_setSp (s := { q with mem := s5.mem, threads := s5.threads })
        (v := (s5.thread t).sp - argSize) hl6 fun ⟨_, hhigh⟩ => by
          change (s5.thread t).bottom.toNat ≤ _ ∧ _ ≤ (s5.thread t).top.toNat
          change (s5.thread t).sp.toNat ≤ (s5.thread t).top.toNat at hhigh
          rw [BitVec.toNat_sub_of_le (by rw [BitVec.le_def]; omega)]
          omega
      exact ⟨q, .issue hq hcap', (h6.trans hsp).trans (localTo_advance (hsp.lt_length hl6) _)⟩

/-! ## RET (R214) -/

theorem execRet_effect (n16 : Word) (s : State) : HasEffect (.ret n16) (execRet n16 s) s := by
  refine ⟨_, rfl, fun t s' hcur hop => ?_⟩
  have hl := cur?_lt hcur
  simp only at hop
  split at hop
  case isTrue => cases hop
  case isFalse hinside =>
    obtain ⟨savedFp, _, hop⟩ := bind_eq_ok.1 hop
    obtain ⟨ret, _, hop⟩ := bind_eq_ok.1 hop
    have hunwind : ∀ {newFp s1}, unwind t n16 newFp ret s = .ok s1 → LocalTo t s s1 :=
      localTo_unwind hl (by omega) (by omega)
    split at hop
    case isFalse => exact ⟨s, .none _, hunwind hop⟩
    case isTrue =>
      obtain ⟨a, rest, hact, hthread, _⟩ := cur?_eq_some.1 hcur
      cases hkind : a.kind with
      | root =>
        rw [endActivation_root hact hkind] at hop
        cases hop
        exact ⟨_, .rootEnd hact hkind, .refl _ _⟩
      | sync =>
        rw [endActivation_sync hact hkind] at hop
        obtain ⟨s1, hs1, hop⟩ := bind_eq_ok.1 hop
        cases hop
        have h1 := hunwind hs1
        refine ⟨_, .syncEnd hact hkind, ?_⟩
        have h2 := h1.rebase (s0 := { s with actStack := rest, outputs := s.outputs ++ [.syncDone a.obj] }) rfl rfl rfl
        rw [h1.frame]
        exact h2

/-! ## Every instruction -/

/-- Every instruction is an operation settled, and what it can do where it takes no fault is an `Effect`. -/
theorem exec_hasEffect (i : Instr) (s : State) : HasEffect i (exec i s) s := by
  cases i with
  | pushiB v | pushiW v | pushiD v => exact hasEffect_of_local (pushImm_local _ s v _)
  | pushfB off | pushfW off | pushfD off => exact hasEffect_of_local (pushSlot_local _ s off)
  | pushaB addr | pushaW addr | pushaD addr => exact hasEffect_of_local (pushAbs_local _ s addr)
  | pushdB | pushdW | pushdD => exact hasEffect_of_local (pushDeref_local _ s)
  | popfB off | popfW off | popfD off => exact hasEffect_of_local (popSlot_local _ s off)
  | popaB addr | popaW addr | popaD addr => exact hasEffect_of_local (popAbs_local _ s addr)
  | popdB | popdW | popdD => exact hasEffect_of_local (popDeref_local _ s)
  | jgzB addr | jgzW addr | jgzD addr | jgezB addr | jgezW addr | jgezD addr | jezB addr | jezW addr | jezD addr
  | jnezB addr | jnezW addr | jnezD addr => exact hasEffect_of_local (condJump_local _ s _ addr)
  | jmp addr => exact hasEffect_of_local (execJmp_local s addr)
  | call addr => exact hasEffect_of_local (execCall_local s addr)
  | ret n16 => exact execRet_effect n16 s
  | ecall id => exact execEcall_effect id s
  | sync => exact execSync_effect s
  | async => exact execAsync_effect s
  | divB | divW | divD | modB | modW | modD => exact hasEffect_of_binop rfl
  | _ => exact hasEffect_of_total rfl

/-- What an instruction that answers a next state has done: taken a fault, or had one of its effects. -/
theorem exec_eq_next {i : Instr} {s s' : State} (h : exec i s = .next s') :
    ∃ t, s.cur? = some t ∧ ((∃ f, s' = raiseFault f s) ∨ Effect i s t s') := by
  obtain ⟨op, hop, heffect⟩ := exec_hasEffect i s
  rw [hop] at h
  obtain ⟨t, hcur, rfl⟩ := runInstr_eq_next.1 h
  obtain ⟨s', hok, hsettle⟩ | ⟨f, _, hsettle⟩ := settle_cases s (op t)
  · exact ⟨t, hcur, .inr (hsettle ▸ heffect t s' hcur hok)⟩
  · exact ⟨t, hcur, .inl ⟨f, hsettle⟩⟩

end Sys2Proof.Machine

/-! PROOF. The invariant of the block (R64), field by field: one record of named facts in terms of indices, and how
each shared operation keeps it. -/

namespace Sys2Proof.Machine

/-! ## Records by index -/

theorem forall_threads_iff {s : State} {P : Thread → Prop} :
    (∀ r ∈ s.threads, P r) ↔ ∀ t < s.threads.length, P (s.thread t) := by
  rw [List.forall_mem_iff_forall_getElem]
  exact forall₂_congr fun t ht => by rw [State.thread, List.getD_eq_getElem _ _ ht]

theorem forall_bins_iff {s : State} {P : Bin → Prop} :
    (∀ r ∈ s.bins, P r) ↔ ∀ b < s.bins.length, P (s.bin b) := by
  rw [List.forall_mem_iff_forall_getElem]
  exact forall₂_congr fun b hb => by rw [State.bin, List.getD_eq_getElem _ _ hb]

/-! ## Free lists (R39, R43) -/

/-- `l` lists, once each, exactly the indices below `n` whose record is free. -/
structure FreeList (n : Nat) (free : Nat → Bool) (l : List Nat) : Prop where
  nodup : l.Nodup
  lt : ∀ i ∈ l, i < n
  iff : ∀ i < n, (free i = true ↔ i ∈ l)

namespace FreeList

variable {n x : Nat} {free free' : Nat → Bool} {l : List Nat}

theorem congr (h : FreeList n free l) (hsame : ∀ i < n, free' i = free i) : FreeList n free' l :=
  ⟨h.nodup, h.lt, fun i hi => by rw [hsame i hi, h.iff i hi]⟩

/-- Taking the first of the list and marking it in use. -/
theorem take (h : FreeList n free (x :: l)) (hx : free' x = false) (hothers : ∀ i, i ≠ x → free' i = free i) :
    FreeList n free' l := by
  obtain ⟨hnew, hnodup⟩ := List.nodup_cons.1 h.nodup
  refine ⟨hnodup, fun i hi => h.lt i (List.mem_cons_of_mem _ hi), fun i hi => ?_⟩
  by_cases hix : i = x
  · subst hix
    simp [hx, hnew]
  · rw [hothers i hix, h.iff i hi, List.mem_cons, or_iff_right hix]

/-- Giving one in use back to the front of the list. -/
theorem give (h : FreeList n free l) (hlt : x < n) (hbusy : free x = false) (hx : free' x = true)
    (hothers : ∀ i, i ≠ x → free' i = free i) : FreeList n free' (x :: l) := by
  have hnew : x ∉ l := fun hmem => by simp [(h.iff x hlt).2 hmem] at hbusy
  refine ⟨List.nodup_cons.2 ⟨hnew, h.nodup⟩, fun i hi => ?_, fun i hi => ?_⟩
  · obtain rfl | hi := List.mem_cons.1 hi
    · exact hlt
    · exact h.lt i hi
  · by_cases hix : i = x
    · subst hix
      simp [hx]
    · rw [hothers i hix, h.iff i hi, List.mem_cons, or_iff_right hix]

/-- After a reset or a link every record is free, in the order of the indices (R60, R330). -/
theorem range (h : ∀ i < n, free i = true) : FreeList n free (List.range n) :=
  ⟨List.nodup_range, fun _ => List.mem_range.1, fun i hi => by simp [h i hi, hi]⟩

end FreeList

/-! ## The invariant, field by field -/

/-- The stack of a thread lies beyond the boundary and in the arena, and the pointer of a running one in it
(R64 b). -/
structure StackOk (xb cap : Nat) (r : Thread) : Prop where
  above : xb ≤ r.bottom.toNat
  order : r.bottom.toNat ≤ r.top.toNat
  within : r.top.toNat ≤ cap
  sp : r.free = false → r.bottom.toNat ≤ r.sp.toNat ∧ r.sp.toNat ≤ r.top.toNat

/-- `Inv`, with a name for each of its facts and records by index. -/
structure Invariant (s : State) : Prop where
  ok : s.params.ok = true
  threadCount : s.threads.length = s.params.nThreads
  binCount : s.bins.length = s.params.nBins
  mem : Memory.wf s.mem = true ∧ Memory.within s.params.memCap s.mem = true
  fbuf : Memory.wf s.fbuf = true ∧ Memory.within s.params.frameCap s.fbuf = true
  ring : Memory.wf s.ring = true ∧ Memory.within s.params.txringCap s.ring = true
  data : ∀ b < s.bins.length, Memory.wf (s.bin b).data = true ∧ Memory.within s.params.binCap (s.bin b).data = true
  threadPool : FreeList s.threads.length (fun t => (s.thread t).free) s.threadFree
  binPool : FreeList s.bins.length (fun b => (s.bin b).free) s.binFree
  argSize : ∀ b < s.bins.length, (s.bin b).argSize.toNat ≤ s.params.binCap
  depth : s.actStack.length ≤ s.params.maxActDepth
  rooted : rooted s.actStack = true
  running : ∀ a ∈ s.actStack, a.thread < s.threads.length
  busy : ∀ t < s.threads.length, ((s.thread t).free = false ↔ t ∈ s.actStack.map Activation.thread)
  waiting : s.syncWait = true → topIsSync s.actStack = true
  idle : s.imageValid = false → s.actStack = [] ∧ s.syncWait = false ∧ s.cbValid = false
  binsIdle : s.imageValid = false → ∀ b < s.bins.length, (s.bin b).free = true
  image : s.imageValid = true → s.progStart.toNat ≤ s.externB.toNat ∧ s.externB.toNat ≤ s.params.memCap ∧
    s.confirmedReceived = s.totalLen
  regions : s.imageValid = true → ∀ t < s.threads.length, StackOk s.externB.toNat s.params.memCap (s.thread t)
  confirmed : s.confirmedReceived.toNat ≤ s.totalLen.toNat
  total : s.totalLen.toNat ≤ s.params.memCap
  flen : s.flen ≤ s.params.frameCap
  txHead : s.txHead < s.params.txringCap
  txCount : s.txCount ≤ s.params.txringCap
  txIdle : s.txActive = false → s.txCount = 0

theorem stackOk_iff {xb cap : Nat} {r : Thread} : StackOk xb cap r ↔
    xb ≤ r.bottom.toNat ∧ r.bottom.toNat ≤ r.top.toNat ∧ r.top.toNat ≤ cap ∧
      (r.free = false → r.bottom.toNat ≤ r.sp.toNat ∧ r.sp.toNat ≤ r.top.toNat) :=
  ⟨fun h => ⟨h.above, h.order, h.within, h.sp⟩, fun ⟨h1, h2, h3, h4⟩ => ⟨h1, h2, h3, h4⟩⟩

theorem inv_iff {s : State} : Inv s ↔ Invariant s := by
  constructor
  · rintro ⟨⟨hok, hthreads, hbins⟩, ⟨hmem, hfbuf, hring, hdata⟩,
      ⟨hnodup, hlt, hiff, hnodup', hlt', hiff', hargs⟩, ⟨hdepth, hrooted, hrunning, hbusy, hwaiting⟩, hidle, himage,
      ⟨hconfirmed, htotal⟩, hflen, hhead, hcount, htxIdle⟩
    exact {
      ok := hok, threadCount := hthreads, binCount := hbins, mem := hmem, fbuf := hfbuf, ring := hring
      data := forall_bins_iff.1 hdata
      threadPool := ⟨hnodup, hlt, hiff⟩
      binPool := ⟨hnodup', hlt', hiff'⟩
      argSize := forall_bins_iff.1 hargs
      depth := hdepth, rooted := hrooted, running := hrunning, busy := hbusy, waiting := hwaiting
      idle := fun h => ⟨(hidle h).1, (hidle h).2.1, (hidle h).2.2.2⟩
      binsIdle := fun h => forall_bins_iff.1 (hidle h).2.2.1
      image := fun h => ⟨(himage h).1, (himage h).2.1, (himage h).2.2.1⟩
      regions := fun h t ht => stackOk_iff.2 (forall_threads_iff.1 (himage h).2.2.2 t ht)
      confirmed := hconfirmed, total := htotal, flen := hflen, txHead := hhead, txCount := hcount, txIdle := htxIdle }
  · intro h
    exact ⟨⟨h.ok, h.threadCount, h.binCount⟩, ⟨h.mem, h.fbuf, h.ring, forall_bins_iff.2 h.data⟩,
      ⟨h.threadPool.nodup, h.threadPool.lt, h.threadPool.iff, h.binPool.nodup, h.binPool.lt, h.binPool.iff,
        forall_bins_iff.2 h.argSize⟩,
      ⟨h.depth, h.rooted, h.running, h.busy, h.waiting⟩,
      fun hi => ⟨(h.idle hi).1, (h.idle hi).2.1, forall_bins_iff.2 (h.binsIdle hi), (h.idle hi).2.2⟩,
      fun hi => ⟨(h.image hi).1, (h.image hi).2.1, (h.image hi).2.2,
        forall_threads_iff.2 fun t ht => stackOk_iff.1 (h.regions hi t ht)⟩,
      ⟨h.confirmed, h.total⟩, h.flen, h.txHead, h.txCount, h.txIdle⟩

/-- Definedness, with a name for each of its facts and bins by index. -/
structure Definedness (s : State) : Prop where
  confirmed : ∀ a < s.confirmedReceived.toNat, Memory.defined s.mem a
  image : s.imageValid = true → ∀ a < s.params.memCap, Memory.defined s.mem a
  args : ∀ b < s.bins.length, (s.bin b).free = false → ∀ a < (s.bin b).argSize.toNat,
    Memory.defined (s.bin b).data a
  fbuf : ∀ a < s.flen, Memory.defined s.fbuf a
  ring : ∀ i < s.txCount, Memory.defined s.ring ((s.txHead + i) % s.params.txringCap)

theorem definedOk_iff {s : State} : DefinedOk s ↔ Definedness s := by
  constructor
  · rintro ⟨hconfirmed, himage, hargs, hfbuf, hring⟩
    exact ⟨hconfirmed, himage, forall_bins_iff.1 hargs, hfbuf, hring⟩
  · intro h
    exact ⟨h.confirmed, h.image, forall_bins_iff.2 h.args, h.fbuf, h.ring⟩

/-! ## Operations on one thread -/

section
variable {t : Nat} {s s' : State}

theorem LocalTo.free_eq (h : LocalTo t s s') (u : Nat) : (s'.thread u).free = (s.thread u).free := by
  by_cases hu : u = t
  · rw [hu, h.free]
  · rw [h.others u hu]

theorem LocalTo.stackOk {xb cap u : Nat} (h : LocalTo t s s') (hok : StackOk xb cap (s.thread u)) :
    StackOk xb cap (s'.thread u) := by
  by_cases hu : u = t
  · subst hu
    refine ⟨h.bottom ▸ hok.above, ?_, h.top ▸ hok.within, fun hfree => h.sp (hok.sp (h.free ▸ hfree))⟩
    rw [h.bottom, h.top]
    exact hok.order
  · rw [h.others u hu]
    exact hok

theorem Invariant.of_localTo (hs : Invariant s) (h : LocalTo t s s') : Invariant s' := by
  have hlength := h.length
  have hfree := h.free_eq
  have hstack := fun xb cap u => h.stackOk (xb := xb) (cap := cap) (u := u)
  have hmem := h.mem
  obtain ⟨m, ts, rfl⟩ := h.exists_eq
  exact { hs with
    threadCount := hlength.trans hs.threadCount
    mem := ⟨hmem.wf hs.mem.1, hmem.within hs.mem.2⟩
    threadPool := hlength.symm ▸ hs.threadPool.congr fun u _ => hfree u
    running := fun a ha => hlength.symm ▸ hs.running a ha
    busy := fun u hu => by
      rw [hfree]
      exact hs.busy u (hlength ▸ hu)
    regions := fun hi u hu => hstack _ _ u (hs.regions hi u (hlength ▸ hu)) }

theorem Definedness.of_localTo (hs : Definedness s) (h : LocalTo t s s') : Definedness s' := by
  have hmem := h.mem
  obtain ⟨m, ts, rfl⟩ := h.exists_eq
  exact { hs with
    confirmed := fun a ha => hmem.defined a (hs.confirmed a ha)
    image := fun hi a ha => hmem.defined a (hs.image hi a ha) }

end

/-! ## Faults (R371) -/

section
variable {s : State}

theorem Invariant.of_raiseFault (hs : Invariant s) (f : FaultCode) : Invariant (raiseFault f s) :=
  { hs with ok := hs.ok }

theorem Definedness.of_raiseFault (hs : Definedness s) (f : FaultCode) : Definedness (raiseFault f s) :=
  { hs with confirmed := hs.confirmed }

/-! ## The transmit ring (R352, R354) -/

/-- The bounds of R7. -/
theorem params_ok_iff {p : Params} : p.ok = true ↔
    (8 ≤ p.memCap ∧ p.memCap ≤ 65535) ∧ (1 ≤ p.nThreads ∧ p.nThreads ≤ 255) ∧ (1 ≤ p.nBins ∧ p.nBins ≤ 255) ∧
    (2 ≤ p.binCap ∧ p.binCap ≤ 65535) ∧ (4 ≤ p.frameCap ∧ p.frameCap ≤ 65535) ∧
    (6 ≤ p.txringCap ∧ p.txringCap ≤ 65535) ∧ 1 ≤ p.maxActDepth := by
  simp [Params.ok, and_assoc]

theorem Invariant.txring_pos (hs : Invariant s) : 0 < s.params.txringCap :=
  Nat.lt_of_le_of_lt (Nat.zero_le _) hs.txHead

theorem Invariant.of_txShift (hs : Invariant s) (hactive : s.txActive = true) : Invariant (txShift s) :=
  { hs with
    txHead := Nat.mod_lt _ hs.txring_pos
    txCount := (Nat.sub_le _ _).trans hs.txCount
    txIdle := fun h => by
      rw [show s.txActive = false from h] at hactive
      cases hactive }

theorem Definedness.of_txShift (hs : Definedness s) : Definedness (txShift s) :=
  { hs with
    ring := fun i hi => by
      have hold := hs.ring (i + 1) (Nat.add_lt_of_lt_sub hi)
      have hplace : ((s.txHead + 1) % s.params.txringCap + i) % s.params.txringCap =
          (s.txHead + (i + 1)) % s.params.txringCap := by
        rw [Nat.mod_add_mod, Nat.add_assoc, Nat.add_comm 1 i]
      exact hplace ▸ hold }

/-- The state after `x` is put behind the queue, the transmitter started. -/
theorem Invariant.of_appended {x : List Byte} (hs : Invariant s) (hroom : s.txCount + x.length ≤ s.params.txringCap) :
    Invariant { s.appended x with txActive := true } :=
  { hs with
    ring := Memory.wf_ringPut _ x s.ring _ hs.txring_pos hs.ring.1 hs.ring.2
    txCount := hroom
    txIdle := fun h => by cases h }

/-- Behind `n` places of the ring that have been written, as many more are. -/
theorem defined_ringPut {cap head n i : Nat} {m : Memory} {x : List Byte}
    (h : ∀ i < n, Memory.defined m ((head + i) % cap)) (hroom : n + x.length ≤ cap) (hi : i < n + x.length) :
    Memory.defined (ringPut cap m (head + n) x) ((head + i) % cap) := by
  by_cases hold : i < n
  · rw [Memory.defined, get?_ringPut_outside _ _ _ _ _ fun j hj => mod_ne_of_lt (by omega) (by omega)]
    exact h i hold
  · obtain ⟨j, rfl⟩ := Nat.exists_eq_add_of_le (Nat.not_lt.1 hold)
    have hput := get?_ringPut_inside cap x m (head + n) j (by omega) (by omega)
    rw [Nat.add_assoc] at hput
    exact Option.isSome_iff_exists.2 ⟨_, hput⟩

theorem Definedness.of_appended {x : List Byte} (hs : Definedness s)
    (hroom : s.txCount + x.length ≤ s.params.txringCap) : Definedness { s.appended x with txActive := true } :=
  { hs with ring := fun _ hi => defined_ringPut hs.ring hroom hi }

/-- A sequence accepted has room, and is appended; an idle transmitter shifts the oldest byte out besides. -/
theorem enqueue_eq_some {x : List Byte} {q : State} (h : enqueue x s = some q) :
    s.txCount + x.length ≤ s.params.txringCap ∧
      (q = { s.appended x with txActive := true } ∨ q = txShift { s.appended x with txActive := true }) := by
  by_cases hroom : s.txCount + x.length ≤ s.params.txringCap
  case neg =>
    rw [enqueue_rejects (Nat.not_le.1 hroom)] at h
    cases h
  case pos =>
    refine ⟨hroom, ?_⟩
    cases hactive : s.txActive with
    | true =>
      rw [enqueue_active hroom hactive] at h
      cases h
      left
      rw [← hactive]
      rfl
    | false =>
      rw [enqueue_idle hroom hactive] at h
      cases h
      exact .inr rfl

theorem Invariant.of_enqueue {x : List Byte} {q : State} (hs : Invariant s) (h : enqueue x s = some q) :
    Invariant q := by
  obtain ⟨hroom, rfl | rfl⟩ := enqueue_eq_some h
  · exact hs.of_appended hroom
  · exact (hs.of_appended hroom).of_txShift rfl

theorem Definedness.of_enqueue {x : List Byte} {q : State} (hs : Definedness s) (h : enqueue x s = some q) :
    Definedness q := by
  obtain ⟨hroom, rfl | rfl⟩ := enqueue_eq_some h
  · exact hs.of_appended hroom
  · exact (hs.of_appended hroom).of_txShift

/-! ## Bins (R42, R43) -/

theorem Invariant.bin_lt (hs : Invariant s) {b : Nat} {rest : List Nat} (hbin : s.binFree = b :: rest) :
    b < s.bins.length := hs.binPool.lt b (hbin ▸ List.mem_cons_self)

theorem toNat_ofNat_le (w x : Nat) : (BitVec.ofNat w x).toNat ≤ x := by
  rw [BitVec.toNat_ofNat]
  exact Nat.mod_le _ _

/-- Facts about every bin after one is replaced: those of the new one, and the others as before. -/
theorem forall_bin_setBin {P : Bin → Prop} {b : Nat} {r : Bin} (hr : P r) (h : ∀ u < s.bins.length, P (s.bin u)) :
    ∀ u < (s.setBin b r).bins.length, P ((s.setBin b r).bin u) := by
  intro u hu
  rw [setBin_bins, List.length_set] at hu
  by_cases hub : u = b
  · subst hub
    rwa [bin_setBin_same _ _ _ hu]
  · rw [bin_setBin_other _ _ _ _ hub]
    exact h u hu

section
variable {data : List Byte} {method : Addr} {origin : Option Nat} {obj : Word} {baseline deadline : DWord} {q : State}

/-- A call issued under an image, with data that a bin can hold (R243). -/
theorem Invariant.of_issueAsync (hs : Invariant s) (himage : s.imageValid = true)
    (hsize : data.length ≤ s.params.binCap)
    (h : issueAsync data method origin obj baseline deadline s = .ok q) : Invariant q := by
  cases hbin : s.binFree with
  | nil =>
    rw [issueAsync_exhausted hbin] at h
    cases h
  | cons b rest =>
    have hb := hs.bin_lt hbin
    have hdata := hs.data b hb
    rw [issueAsync_ok hbin hb] at h
    cases h
    have hpool := hs.binPool
    rw [hbin] at hpool
    exact { hs with
      binCount := List.length_set.trans hs.binCount
      data := forall_bin_setBin (P := fun r => Memory.wf r.data = true ∧ Memory.within s.params.binCap r.data = true)
        ⟨Memory.wf_putAll _ _ _ hdata.1, Memory.within_putAll _ _ _ _ (by omega) hdata.2⟩ hs.data
      binPool := by
        rw [List.length_set]
        exact hpool.take (congrArg Bin.free (bin_setBin_same s b _ hb))
          fun u hu => congrArg Bin.free (bin_setBin_other s b u _ hu)
      argSize := forall_bin_setBin (P := fun r => r.argSize.toNat ≤ s.params.binCap)
        ((toNat_ofNat_le _ _).trans hsize) hs.argSize
      binsIdle := fun hi => by
        rw [show s.imageValid = false from hi] at himage
        cases himage }

/-- The argument bytes of a call issued have been written. -/
theorem Definedness.of_issueAsync (hs : Definedness s) (hpool : ∀ b ∈ s.binFree, b < s.bins.length)
    (h : issueAsync data method origin obj baseline deadline s = .ok q) : Definedness q := by
  cases hbin : s.binFree with
  | nil =>
    rw [issueAsync_exhausted hbin] at h
    cases h
  | cons b rest =>
    have hb := hpool b (hbin ▸ List.mem_cons_self)
    rw [issueAsync_ok hbin hb] at h
    cases h
    exact { hs with
      args := forall_bin_setBin
        (P := fun r => r.free = false → ∀ a < r.argSize.toNat, Memory.defined r.data a)
        (fun _ a ha => by
          have hin : a < data.length := ha.trans_le (toNat_ofNat_le _ _)
          have hput := Memory.get?_putAll_inside (s.bin b).data 0 data a hin
          rw [Nat.zero_add] at hput
          exact Option.isSome_iff_exists.2 ⟨_, hput⟩)
        hs.args }

end

end

end Sys2Proof.Machine

/-! PROOF. What a frame, a load and a step can do, said once: one inversion lemma each (R104, R270, R296 to R298,
R320). -/

namespace Sys2Proof.Machine

/-! ## Steps (R62, R104) -/

/-- A fetch that succeeds needs a valid image (R104). -/
theorem imageValid_of_fetch {pc : Addr} {s : State} {i : Instr} (h : fetch pc s = .ok i) : s.imageValid = true := by
  cases hvalid : s.imageValid with
  | true => rfl
  | false => simp [fetch, hvalid] at h

theorem stepEnabled_iff {s : State} :
    s.stepEnabled = true ↔ s.Alive ∧ s.actStack ≠ [] ∧ s.syncWait = false := by
  simp [State.stepEnabled, and_assoc]

/-- The interpreter's turn: nothing, a fault of the fetch, or an instruction fetched from a valid image. -/
theorem stepEvent_eq_next {s s' : State} (h : stepEvent s = .next s') :
    s' = s ∨ (∃ f, s' = raiseFault f s) ∨
      ∃ i, s.syncWait = false ∧ s.imageValid = true ∧ exec i s = .next s' := by
  unfold stepEvent at h
  split at h
  case isFalse =>
    cases h
    exact .inl rfl
  case isTrue henabled =>
    obtain ⟨_, _, hwait⟩ := stepEnabled_iff.1 henabled
    split at h
    · cases h
    · split at h
      case h_1 f _ =>
        cases h
        exact .inr (.inl ⟨f, rfl⟩)
      case h_2 i hfetch => exact .inr (.inr ⟨i, hwait, imageValid_of_fetch hfetch, h⟩)

/-- A step is the interpreter's turn or an input event, with the entry taken off the list (R62). -/
theorem step_eq_next {s s' : State} (h : step s = .next s') :
    stepEvent { s with inputs := s.inputs.tail } = .next s' ∨
      ∃ e rest, s.inputs = .input e :: rest ∧ s' = inputEvent e { s with inputs := rest } := by
  unfold step at h
  split at h
  case h_1 hnil =>
    rw [hnil, List.tail_nil, ← hnil]
    exact .inl h
  case h_2 rest hcons =>
    rw [hcons, List.tail_cons]
    exact .inl h
  case h_3 e rest hcons =>
    cases h
    exact .inr ⟨e, rest, hcons, rfl⟩

/-! ## Segment frames (R290, R291) -/

/-- The two bytes of a field are the slices of their number. -/
theorem slices_ofNat_leNat (b1 b2 : Byte) : slices 2 (BitVec.ofNat 16 (leNat [b1, b2])) = [b1, b2] := by
  have hbytes : leBytes 2 (leNat [b1, b2]) = [b1, b2] := leBytes_leNat [b1, b2]
  have hslices := leBytes_eq_slices_ofNat 2 (leNat [b1, b2])
  rw [hbytes] at hslices
  exact hslices.symm

/-- A frame with at least three bytes after its header is a segment frame. -/
theorem exists_segmentFrame (h : Byte) {x : List Byte} (hlen : 3 ≤ x.length) :
    ∃ field data ck, h :: x = segmentFrame h field data ck := by
  match x, hlen with
  | b1 :: b2 :: b3 :: y, _ =>
    refine ⟨BitVec.ofNat 16 (leNat [b1, b2]), (b3 :: y).dropLast, (b3 :: y).getLast (List.cons_ne_nil _ _), ?_⟩
    rw [segmentFrame, slices_ofNat_leNat, List.append_assoc, List.dropLast_concat_getLast]
    rfl

/-- A frame that passes the test of R290 and R291 is a segment frame with its own checksum. -/
theorem exists_segmentFrame_of_segmentOk {h : Byte} {x : List Byte} (hok : segmentOk (h :: x) = true) :
    ∃ field data, h :: x = segmentFrame h field data (checksum (slices 2 field ++ data)) := by
  have hlen : 4 ≤ (h :: x).length := by
    simp only [segmentOk, Bool.and_eq_true, decide_eq_true_eq] at hok
    exact hok.1
  obtain ⟨field, data, ck, heq⟩ := exists_segmentFrame h (Nat.le_of_succ_le_succ hlen)
  rw [heq, segmentOk_segmentFrame] at hok
  exact ⟨field, data, hok ▸ heq⟩

/-! ## Frames (R270) -/

/-- What a closed frame can do to `s` where it raises no fault. -/
inductive FrameEffect (s : State) : List Byte → State → Prop
  /-- It is dropped. -/
  | dropped (f : List Byte) : FrameEffect s f s
  /-- A duplicate is acknowledged (R297). -/
  | acked (x : List Byte) : FrameEffect s (0x02 :: x) (sendAck s)
  /-- An init segment begins a transfer (R296). -/
  | begun {f data : List Byte} {total : Word} {q : State} (hinit : AcceptedInit s f)
      (hcap : total.toNat ≤ s.params.memCap) (hlen : data.length ≤ total.toNat) (hquiet : Quiescent s)
      (h : acceptData 0 data (s.beginTransfer total) = .ok q) : FrameEffect s f q
  /-- A continuation segment adds to one (R297). -/
  | continued {x data : List Byte} {off : Nat} {q : State} (hnear : off ≤ s.confirmedReceived.toNat)
      (hnew : s.confirmedReceived.toNat < off + data.length) (hfits : off + data.length ≤ s.totalLen.toNat)
      (h : acceptData off data s = .ok q) : FrameEffect s (0x02 :: x) q
  /-- A reset frame (R272). -/
  | reset (x : List Byte) : FrameEffect s (0x04 :: x) (resetFrame s)
  /-- An application frame goes to the callback (R273). -/
  | delivered {f data : List Byte} {method : Addr} {obj : Word} {q : State} (hcb : s.cbValid = true)
      (hsize : data.length ≤ s.params.binCap) (h : issueAsync data method none obj 0 0 s = .ok q) : FrameEffect s f q

section
variable {s q : State}

theorem initSegment_effect {total : Word} {data : List Byte}
    (h : initSegment (segmentFrame 0x01 total data (checksum (slices 2 total ++ data))) s = .ok q) :
    FrameEffect s (segmentFrame 0x01 total data (checksum (slices 2 total ++ data))) q := by
  have hfield := frameField_segmentFrame 0x01 total data (checksum (slices 2 total ++ data))
  have hdata := frameData_segmentFrame 0x01 total data (checksum (slices 2 total ++ data))
  by_cases hbad : s.params.memCap < total.toNat ∨ total.toNat < data.length
  case pos =>
    rw [initSegment_dropped hfield hdata hbad] at h
    cases h
    exact .dropped _
  case neg =>
    obtain ⟨hcap, hlen⟩ : total.toNat ≤ s.params.memCap ∧ data.length ≤ total.toNat := by omega
    by_cases hquiet : Quiescent s
    case pos =>
      rw [initSegment_accepted hfield hdata hcap hlen hquiet] at h
      exact .begun ⟨total, data, rfl, hcap, hlen, hquiet⟩ hcap hlen hquiet h
    case neg =>
      rw [initSegment_live hfield hdata hcap hlen hquiet] at h
      cases h

theorem moreSegment_effect {off : Word} {data : List Byte}
    (h : moreSegment (segmentFrame 0x02 off data (checksum (slices 2 off ++ data))) s = .ok q) :
    FrameEffect s (segmentFrame 0x02 off data (checksum (slices 2 off ++ data))) q := by
  have hfield := frameField_segmentFrame 0x02 off data (checksum (slices 2 off ++ data))
  have hdata := frameData_segmentFrame 0x02 off data (checksum (slices 2 off ++ data))
  by_cases hgap : s.confirmedReceived.toNat < off.toNat
  case pos =>
    rw [moreSegment_gap hfield hgap] at h
    cases h
    exact .dropped _
  case neg =>
    have hnear := Nat.not_lt.1 hgap
    rw [moreSegment_near hfield hdata hnear] at h
    split at h
    case isTrue =>
      cases h
      exact .acked _
    case isFalse hold =>
      split at h
      case isTrue =>
        cases h
        exact .dropped _
      case isFalse hfits => exact .continued hnear (Nat.not_le.1 hold) (Nat.not_lt.1 hfits) h

theorem applicationFrame_effect {h0 : Byte} {x : List Byte} (h : applicationFrame (h0 :: x) s = .ok q) :
    FrameEffect s (h0 :: x) q := by
  by_cases hdrop : s.cbValid = true ∧ x.length + 2 ≤ s.params.binCap
  case pos =>
    rw [applicationFrame_issues hdrop.1 hdrop.2] at h
    exact .delivered hdrop.1 (by rw [callbackData_length]; exact hdrop.2) h
  case neg =>
    have hsame : applicationFrame (h0 :: x) s = .ok s := by
      cases hcb : s.cbValid with
      | false => exact applicationFrame_no_callback hcb
      | true => exact applicationFrame_too_long hcb (Nat.not_le.1 fun hfits => hdrop ⟨hcb, hfits⟩)
    rw [hsame] at h
    cases h
    exact .dropped _

theorem frameComplete_effect {f : List Byte} (h : frameComplete f s = .ok q) : FrameEffect s f q := by
  cases f with
  | nil =>
    cases h
    exact .dropped _
  | cons h0 x =>
    by_cases hinit : h0 = 0x01
    case pos =>
      subst hinit
      by_cases hok : segmentOk (0x01 :: x) = true
      case pos =>
        obtain ⟨total, data, hf⟩ := exists_segmentFrame_of_segmentOk hok
        rw [hf] at h ⊢
        rw [frameComplete_init] at h
        exact initSegment_effect h
      case neg =>
        cases (show frameComplete (0x01 :: x) s = .ok s from if_neg hok).symm.trans h
        exact .dropped _
    case neg =>
      by_cases hmore : h0 = 0x02
      case pos =>
        subst hmore
        by_cases hok : segmentOk (0x02 :: x) = true
        case pos =>
          obtain ⟨off, data, hf⟩ := exists_segmentFrame_of_segmentOk hok
          rw [hf] at h ⊢
          rw [frameComplete_more] at h
          exact moreSegment_effect h
        case neg =>
          cases (show frameComplete (0x02 :: x) s = .ok s from if_neg hok).symm.trans h
          exact .dropped _
      case neg =>
        by_cases hreset : h0 = 0x04
        case pos =>
          subst hreset
          cases h
          exact .reset _
        case neg =>
          rw [frameComplete_of_application hinit hmore hreset] at h
          exact applicationFrame_effect h

/-- Accepted data are written, confirmed and acknowledged, and an image that they complete is loaded. -/
theorem acceptData_eq_ok {off : Nat} {data : List Byte} (h : acceptData off data s = .ok q) :
    q = s.withData off data ∨
      (BitVec.ofNat 16 (off + data.length) = s.totalLen ∧ load (s.withData off data) = .ok q) := by
  rw [acceptData_eq] at h
  split at h
  case isTrue hall => exact .inr ⟨hall, h⟩
  case isFalse =>
    cases h
    exact .inl rfl

end

/-! ## The load (R320) -/

/-- One turn of the walk below `xb`: it ends in a link error, or goes on after a whole instruction that is no
received ECALL and either stays as it is or is a CALL of a native resolved (R325). -/
theorem linkWalk_below {xb p : Nat} (n fuel : Nat) (s : State) (hp : p < xb) :
    linkWalk xb n (fuel + 1) p s = (s, false) ∨
    ∃ len s', lenOf (s.byteAt p) = some len ∧ p + len ≤ xb ∧ s.byteAt p ≠ 0x63 ∧
      linkWalk xb n (fuel + 1) p s = linkWalk xb n fuel (p + len) s' ∧
      ((s' = s ∧ (s.byteAt p = 0x61 → leNat (s.readBytes (p + 1) 2) < xb)) ∨
        (s.byteAt p = 0x61 ∧ resolve p (leNat (s.readBytes (p + 1) 2)) n s = some s')) := by
  simp only [linkWalk, if_neg (Nat.not_le.2 hp)]
  cases hlen : lenOf (s.byteAt p) with
  | none => exact .inl rfl
  | some len =>
    by_cases hecall : s.byteAt p = 0x63
    case pos => exact .inl (if_pos hecall)
    by_cases hwhole : xb < p + len
    case pos => exact .inl ((if_neg hecall).trans (if_pos hwhole))
    simp only [if_neg hecall, if_neg hwhole]
    by_cases hcall : s.byteAt p = 0x61
    case neg =>
      exact .inr ⟨len, s, rfl, Nat.not_lt.1 hwhole, hecall, if_neg hcall, .inl ⟨rfl, fun h => absurd h hcall⟩⟩
    by_cases htarget : xb ≤ leNat (s.readBytes (p + 1) 2)
    case neg =>
      exact .inr ⟨len, s, rfl, Nat.not_lt.1 hwhole, hecall, (if_pos hcall).trans (if_neg htarget),
        .inl ⟨rfl, fun _ => Nat.not_le.1 htarget⟩⟩
    simp only [if_pos hcall, if_pos htarget]
    cases hresolved : resolve p (leNat (s.readBytes (p + 1) 2)) n s with
    | none => exact .inl rfl
    | some s' => exact .inr ⟨len, s', rfl, Nat.not_lt.1 hwhole, hecall, rfl, .inr ⟨hcall, rfl⟩⟩

theorem kept_shiftImage {cap i k : Nat} {s : State} (h : i + k ≤ cap) :
    Memory.Kept cap s.mem (shiftImage i k s).mem := by
  induction k generalizing i s with
  | zero => exact .refl _ _
  | succ k ih =>
    have hwrite : Memory.Kept cap s.mem (s.writeBytes i [s.byteAt (i + headerLength)]).mem :=
      Memory.kept_putAll (by rw [List.length_singleton]; omega)
    exact hwrite.trans (ih (by omega))

/-- A CALL has three bytes, and the walk resolves it inside the section. -/
theorem kept_linkWalk {cap xb n fuel p : Nat} {s : State} (hxb : xb ≤ cap) :
    Memory.Kept cap s.mem (linkWalk xb n fuel p s).1.mem := by
  induction fuel generalizing p s with
  | zero => exact .refl _ _
  | succ fuel ih =>
    by_cases hp : xb ≤ p
    case pos =>
      rw [show linkWalk xb n (fuel + 1) p s = (s, true) from if_pos hp]
      exact .refl _ _
    case neg =>
      obtain hfail | ⟨len, s', hlen, hwhole, _, hgoes, ⟨rfl, _⟩ | ⟨hcall, hresolved⟩⟩ :=
        linkWalk_below n fuel s (Nat.not_le.1 hp)
      · rw [hfail]
        exact .refl _ _
      · rw [hgoes]
        exact ih
      · rw [hgoes]
        obtain ⟨name, id, _, _, _, rfl⟩ := resolve_eq_some.1 hresolved
        rw [hcall, show lenOf 0x61 = some 3 from rfl] at hlen
        cases hlen
        have hwrite : Memory.Kept cap s.mem (s.writeBytes p [0x63, BitVec.ofNat 8 id, 0x00]).mem :=
          Memory.kept_putAll (by simp only [List.length_cons, List.length_nil]; omega)
        exact hwrite.trans ih

/-- The state in which the stacks are carved over the memory `m` and an image with the header of `s` is valid,
before its entry point is scheduled (R330, R331). -/
def State.carved (s : State) (m : Memory) : State :=
  { carveStacks (s.valueAt 16 6).toNat { s with mem := m } with
    progStart := s.valueAt 16 2
    externB := s.valueAt 16 6
    imageValid := true
    linkError := false }

/-- A load ends in a link error, or publishes an image whose boundary lies below the end of its body; and one of at
most the arena writes inside it (R320 to R332). -/
theorem load_eq_ok {s q : State} (h : load s = .ok q) :
    ∃ m, (s.totalLen.toNat ≤ s.params.memCap → Memory.Kept s.params.memCap s.mem m) ∧
      (q = linkFailed { s with mem := m } ∨
      ((s.valueAt 16 2).toNat ≤ (s.valueAt 16 6).toNat ∧ (s.valueAt 16 6).toNat ≤ s.totalLen.toNat ∧
        issueAsync [] (s.valueAt 16 4) none (s.valueAt 16 0) 0 0 (s.carved m) = .ok q)) := by
  by_cases hshort : s.totalLen.toNat < headerLength
  case pos =>
    cases (show load s = .ok (linkFailed s) from if_pos hshort).symm.trans h
    exact ⟨s.mem, fun _ => .refl _ _, .inl rfl⟩
  case neg =>
    have hshift (htotal : s.totalLen.toNat ≤ s.params.memCap) : Memory.Kept s.params.memCap s.mem
        (shiftImage 0 (s.totalLen.toNat - headerLength) s).mem := kept_shiftImage (by omega)
    cases hok : headerOk (s.valueAt 16 2).toNat (s.valueAt 16 4).toNat (s.valueAt 16 6).toNat
      (s.totalLen.toNat - headerLength) s.params.memCap with
    | false =>
      simp only [load, if_neg hshort, hok, Bool.not_false, if_true] at h
      cases h
      refine ⟨_, hshift, .inl ?_⟩
      rw [← shiftImage_sameButMem]
    | true =>
      have hgood : GoodHeader s := ⟨Nat.not_lt.1 hshort, hok⟩
      obtain ⟨hps, hbody, hxb, _, _⟩ := headerOk_eq_true.1 hok
      have hkept (htotal : s.totalLen.toNat ≤ s.params.memCap) : Memory.Kept s.params.memCap s.mem s.walked.1.mem :=
        (hshift htotal).trans (kept_linkWalk hxb)
      refine ⟨_, hkept, ?_⟩
      cases hlinked : s.walked.2 with
      | false =>
        rw [load_link_error hgood hlinked] at h
        cases h
        rw [← walked_sameButMem]
        exact .inl rfl
      | true =>
        rw [load_of_goodHeader hgood, if_pos hlinked, walked_sameButMem s] at h
        simp only [publish, BitVec.ofNat_toNat, BitVec.setWidth_eq] at h
        exact .inr ⟨hps, by omega, h⟩

end Sys2Proof.Machine

/-! PROOF. Every step keeps the invariant, and with it definedness (R64, R85, R299, R350): instructions, then events,
then the step. -/

namespace Sys2Proof.Machine

section
variable {s s' q : State} {t : Nat} {i : Instr}

/-! ## Instructions -/

theorem Invariant.of_device (hs : Invariant s) (himage : s.imageValid = true) (h : DeviceEffect s q) :
    Invariant q := by
  cases h with
  | led v => exact { hs with ok := hs.ok }
  | callback obj method => exact { hs with idle := fun hi => absurd himage (Bool.eq_false_iff.1 hi) }
  | queued h => exact hs.of_enqueue h
  | busy => exact hs

theorem Definedness.of_device (hs : Definedness s) (h : DeviceEffect s q) : Definedness q := by
  cases h with
  | led v => exact { hs with confirmed := hs.confirmed }
  | callback obj method => exact { hs with confirmed := hs.confirmed }
  | queued h => exact hs.of_enqueue h
  | busy => exact hs

/-- The current thread is that of an activation. -/
theorem mem_map_thread_of_cur (hcur : s.cur? = some t) : t ∈ s.actStack.map Activation.thread := by
  obtain ⟨a, rest, hact, rfl, _⟩ := cur?_eq_some.1 hcur
  rw [hact]
  exact List.mem_cons_self

theorem bin_set_metadata (b0 u : Nat) (method : Addr) (origin : Option Nat) :
    ((s.setBin b0 { s.bin b0 with method := method, argSize := 0, origin := origin }).bin u).free =
      (s.bin u).free := by
  by_cases hu : u = b0
  case neg => rw [bin_setBin_other _ _ _ _ hu]
  case pos =>
    subst hu
    by_cases hlt : u < s.bins.length
    case pos => rw [bin_setBin_same _ _ _ hlt]
    case neg => simp [State.bin, State.setBin, List.set_eq_of_length_le (Nat.not_lt.1 hlt)]

/-- A SYNC's activation stands on that of its own thread. -/
theorem Invariant.of_syncBegun (hs : Invariant s) (himage : s.imageValid = true) (hcur : s.cur? = some t)
    (hdepth : s.actStack.length ≠ s.params.maxActDepth) {b0 : Nat} {obj method : Word} (hb0 : b0 < s.bins.length) :
    Invariant (s.syncBegun t b0 obj method) := by
  have hmem := mem_map_thread_of_cur hcur
  have hl := cur?_lt hcur
  exact { hs with
    binCount := List.length_set.trans hs.binCount
    data := forall_bin_setBin (P := fun r => Memory.wf r.data = true ∧ Memory.within s.params.binCap r.data = true)
      (hs.data b0 hb0) hs.data
    binPool := List.length_set.symm ▸ hs.binPool.congr fun u _ => bin_set_metadata b0 u method _
    argSize := forall_bin_setBin (P := fun r => r.argSize.toNat ≤ s.params.binCap) (Nat.zero_le _) hs.argSize
    depth := Nat.lt_of_le_of_ne hs.depth hdepth
    rooted := by
      rw [State.syncBegun, Machine.rooted, Bool.and_eq_true]
      exact ⟨decide_eq_true hmem, hs.rooted⟩
    running := fun a ha => by
      obtain rfl | ha := List.mem_cons.1 ha
      · exact hl
      · exact hs.running a ha
    busy := fun u hu => by
      rw [State.syncBegun, List.map_cons, List.mem_cons]
      exact (hs.busy u hu).trans ⟨.inr, fun h => h.elim (fun e => e ▸ hmem) id⟩
    waiting := fun _ => rfl
    idle := fun hi => absurd himage (Bool.eq_false_iff.1 hi)
    binsIdle := fun hi => absurd himage (Bool.eq_false_iff.1 hi) }

theorem Definedness.of_syncBegun (hs : Definedness s) {b0 : Nat} {obj method : Word} :
    Definedness (s.syncBegun t b0 obj method) :=
  { hs with
    args := forall_bin_setBin (P := fun r => r.free = false → ∀ a < r.argSize.toNat, Memory.defined r.data a)
      (fun _ a ha => absurd ha (Nat.not_lt_zero a)) hs.args }

/-- Under a SYNC's activation there is another of its thread, so the thread goes on (R64 a). -/
theorem Invariant.of_syncEnd (hs : Invariant s) (himage : s.imageValid = true) (hwait : s.syncWait = false)
    {a : Activation} {rest : List Activation} (hact : s.actStack = a :: rest) (hkind : a.kind = .sync)
    (out : List Output) : Invariant { s with actStack := rest, outputs := out } := by
  have hdepth := hs.depth
  have hrooted := hs.rooted
  have hrunning := hs.running
  have hbusy := hs.busy
  simp only [hact, List.length_cons, Machine.rooted, hkind, Bool.and_eq_true, decide_eq_true_eq, List.map_cons,
    List.mem_cons] at hdepth hrooted hrunning hbusy
  exact { hs with
    depth := Nat.le_of_succ_le hdepth
    rooted := hrooted.2
    running := fun b hb => hrunning b (.inr hb)
    busy := fun u hu => (hbusy u hu).trans ⟨fun h => h.elim (fun e => e ▸ hrooted.1) id, .inr⟩
    waiting := fun h => absurd h (Bool.eq_false_iff.1 hwait)
    idle := fun hi => absurd himage (Bool.eq_false_iff.1 hi) }

/-- A root activation is the only one of its thread, which becomes free (R64 a). -/
theorem Invariant.of_rootEnd (hs : Invariant s) (himage : s.imageValid = true) (hwait : s.syncWait = false)
    {a : Activation} {rest : List Activation} (hact : s.actStack = a :: rest) (hkind : a.kind = .root) (e : Output) :
    Invariant (emit e { releaseThread a.thread s with actStack := rest }) := by
  have hdepth := hs.depth
  have hrooted := hs.rooted
  have hrunning := hs.running
  have hbusy := hs.busy
  simp only [hact, List.length_cons, Machine.rooted, hkind, Bool.and_eq_true, decide_eq_true_eq, List.map_cons,
    List.mem_cons] at hdepth hrooted hrunning hbusy
  have hl := hrunning a (.inl rfl)
  have hsame : (s.setThread a.thread { s.thread a.thread with free := true }).thread a.thread = _ :=
    thread_setThread_same _ _ _ hl
  have hother : ∀ u, u ≠ a.thread →
      (s.setThread a.thread { s.thread a.thread with free := true }).thread u = s.thread u :=
    fun u hu => thread_setThread_other _ _ _ _ hu
  exact { hs with
    threadCount := List.length_set.trans hs.threadCount
    threadPool := List.length_set.symm ▸ hs.threadPool.give hl ((hbusy _ hl).2 (.inl rfl))
      (congrArg Thread.free hsame) fun u hu => congrArg Thread.free (hother u hu)
    depth := Nat.le_of_succ_le hdepth
    rooted := hrooted.2
    running := fun b hb => List.length_set.symm ▸ hrunning b (.inr hb)
    busy := fun u hu => by
      change ((s.setThread a.thread { s.thread a.thread with free := true }).thread u).free = false ↔ u ∈ _
      rw [emit_threads, releaseThread_threads, List.length_set] at hu
      by_cases hua : u = a.thread
      case pos =>
        rw [hua, hsame]
        exact ⟨fun h => (Bool.noConfusion h), fun h => absurd h hrooted.1⟩
      case neg =>
        rw [hother u hua, hbusy u hu]
        exact or_iff_right hua
    waiting := fun h => absurd h (Bool.eq_false_iff.1 hwait)
    idle := fun hi => absurd himage (Bool.eq_false_iff.1 hi)
    regions := fun hi u hu => by
      change StackOk _ _ ((s.setThread a.thread { s.thread a.thread with free := true }).thread u)
      rw [emit_threads, releaseThread_threads, List.length_set] at hu
      have hok := hs.regions hi u hu
      by_cases hua : u = a.thread
      case pos =>
        subst hua
        rw [hsame]
        exact ⟨hok.above, hok.order, hok.within, fun h => Bool.noConfusion h⟩
      case neg =>
        rw [hother u hua]
        exact hok }

theorem Invariant.of_bookkeeping (hs : Invariant s) (himage : s.imageValid = true) (hwait : s.syncWait = false)
    (hcur : s.cur? = some t) (h : Bookkeeping s t i q) : Invariant q := by
  cases h with
  | none => exact hs
  | device h => exact hs.of_device himage h
  | syncBegin hbin hdepth => exact hs.of_syncBegun himage hcur hdepth (hs.bin_lt hbin)
  | issue h hsize => exact hs.of_issueAsync himage hsize h
  | syncEnd hact hkind => exact hs.of_syncEnd himage hwait hact hkind _
  | rootEnd hact hkind => exact hs.of_rootEnd himage hwait hact hkind _

theorem Definedness.of_bookkeeping (hs : Definedness s) (hinv : Invariant s) (h : Bookkeeping s t i q) :
    Definedness q := by
  cases h with
  | none => exact hs
  | device h => exact hs.of_device h
  | syncBegin _ _ => exact hs.of_syncBegun
  | issue h _ => exact hs.of_issueAsync hinv.binPool.lt h
  | syncEnd _ _ => exact { hs with confirmed := hs.confirmed }
  | rootEnd _ _ => exact { hs with confirmed := hs.confirmed }

/-- An instruction that the interpreter runs keeps the invariant. -/
theorem Invariant.of_exec (hs : Invariant s) (himage : s.imageValid = true) (hwait : s.syncWait = false)
    (h : exec i s = .next s') : Invariant s' := by
  obtain ⟨t, hcur, ⟨f, rfl⟩ | ⟨s0, hbook, hlocal⟩⟩ := exec_eq_next h
  · exact hs.of_raiseFault f
  · exact (hs.of_bookkeeping himage hwait hcur hbook).of_localTo hlocal

theorem Definedness.of_exec (hs : Definedness s) (hinv : Invariant s) (h : exec i s = .next s') :
    Definedness s' := by
  obtain ⟨t, hcur, ⟨f, rfl⟩ | ⟨s0, hbook, hlocal⟩⟩ := exec_eq_next h
  · exact hs.of_raiseFault f
  · exact (hs.of_bookkeeping hinv hbook).of_localTo hlocal

theorem Invariant.of_stepEvent (hs : Invariant s) (h : stepEvent s = .next s') : Invariant s' := by
  obtain rfl | ⟨f, rfl⟩ | ⟨i, hwait, himage, hexec⟩ := stepEvent_eq_next h
  · exact hs
  · exact hs.of_raiseFault f
  · exact hs.of_exec himage hwait hexec

theorem Definedness.of_stepEvent (hs : Definedness s) (hinv : Invariant s) (h : stepEvent s = .next s') :
    Definedness s' := by
  obtain rfl | ⟨f, rfl⟩ | ⟨i, _, _, hexec⟩ := stepEvent_eq_next h
  · exact hs
  · exact hs.of_raiseFault f
  · exact hs.of_exec hinv hexec

/-! ## Reset (R60, R400) -/

theorem boot_thread (p : Params) {u : Nat} (hu : u < p.nThreads) : (State.boot p).thread u = Thread.reset := by
  simp [State.thread, State.boot, List.getD_eq_getElem?_getD, hu]

theorem boot_bin (p : Params) (u : Nat) : (State.boot p).bin u = Bin.reset := by
  by_cases hu : u < p.nBins <;> simp [State.bin, State.boot, List.getD_eq_getElem?_getD, hu]

theorem Invariant.boot {p : Params} (hok : p.ok = true) : Invariant (State.boot p) := by
  have hthreads : (State.boot p).threads.length = p.nThreads := List.length_replicate
  have hbins : (State.boot p).bins.length = p.nBins := List.length_replicate
  have hring : 0 < p.txringCap := by
    obtain ⟨_, _, _, _, _, ⟨hring, _⟩, _⟩ := params_ok_iff.1 hok
    omega
  exact {
    ok := hok, threadCount := hthreads, binCount := hbins
    mem := ⟨rfl, rfl⟩, fbuf := ⟨rfl, rfl⟩, ring := ⟨rfl, rfl⟩
    data := fun u _ => by
      rw [boot_bin]
      exact ⟨rfl, rfl⟩
    threadPool := hthreads.symm ▸ FreeList.range fun u hu => congrArg Thread.free (boot_thread p hu)
    binPool := hbins.symm ▸ FreeList.range fun u _ => congrArg Bin.free (boot_bin p u)
    argSize := fun u _ => by
      rw [boot_bin]
      exact Nat.zero_le _
    depth := Nat.zero_le _
    rooted := rfl
    running := fun a ha => nomatch ha
    busy := fun u hu => by
      rw [boot_thread p (hthreads ▸ hu)]
      exact ⟨fun h => Bool.noConfusion h, fun h => nomatch h⟩
    waiting := fun h => Bool.noConfusion h
    idle := fun _ => ⟨rfl, rfl, rfl⟩
    binsIdle := fun _ u _ => congrArg Bin.free (boot_bin p u)
    image := fun h => Bool.noConfusion h
    regions := fun h => Bool.noConfusion h
    confirmed := le_rfl
    total := Nat.zero_le _
    flen := Nat.zero_le _
    txHead := hring
    txCount := Nat.zero_le _
    txIdle := fun _ => rfl }

theorem Definedness.boot (p : Params) : Definedness (State.boot p) where
  confirmed a ha := absurd ha (Nat.not_lt_zero a)
  image h := Bool.noConfusion h
  args u _ hfree := by
    rw [boot_bin] at hfree
    exact Bool.noConfusion hfree
  fbuf a ha := absurd ha (Nat.not_lt_zero a)
  ring i hi := absurd hi (Nat.not_lt_zero i)

theorem Invariant.of_restart (hs : Invariant s) : Invariant (restart s) :=
  have hboot := Invariant.boot hs.ok
  { hboot with ok := hboot.ok }

theorem Definedness.of_restart (s : State) : Definedness (restart s) :=
  have hboot := Definedness.boot s.params
  { hboot with confirmed := hboot.confirmed }

/-! ## `Dispatch` (R244) -/

/-- A dispatch that raises no fault is ignored, or starts the call of an outstanding bin on the first free thread. -/
theorem dispatchBin_eq_ok (hs : Invariant s) {b : Nat} (h : dispatchBin b s = .ok q) :
    q = s ∨ ∃ t rest, b < s.bins.length ∧ (s.bin b).free = false ∧ s.syncWait = false ∧ s.imageValid = true ∧
      s.threadFree = t :: rest ∧ s.actStack.length ≠ s.params.maxActDepth ∧
      (s.thread t).bottom.toNat + (s.bin b).argSize.toNat + 4 ≤ (s.thread t).top.toNat ∧
      q = ((s.dispatched b t rest).writeBytes (s.thread t).bottom.toNat
          (s.binBytes b (s.bin b).argSize.toNat ++ [0, 0, 0, 0])).setThread t
        { s.thread t with
          pc := (s.bin b).method
          sp := (s.thread t).bottom + (s.bin b).argSize + 4
          fp := (s.thread t).bottom + (s.bin b).argSize + 4
          free := false } := by
  by_cases hignored : s.params.nBins ≤ b ∨ (s.bin b).free = true ∨ s.syncWait = true
  case pos =>
    rw [dispatchBin_ignored hignored] at h
    cases h
    exact .inl rfl
  case neg =>
    simp only [not_or, Nat.not_le, Bool.not_eq_true] at hignored
    obtain ⟨hb, hbusy, hwait⟩ := hignored
    have hb' : b < s.bins.length := hs.binCount.symm ▸ hb
    have himage : s.imageValid = true := by
      cases himage : s.imageValid with
      | true => rfl
      | false => rw [hs.binsIdle himage b hb'] at hbusy; cases hbusy
    cases hfirst : s.threadFree with
    | nil =>
      rw [dispatchBin_no_thread hb hbusy hwait hfirst] at h
      cases h
    | cons t rest =>
      have ht : t < s.threads.length := hs.threadPool.lt t (hfirst ▸ List.mem_cons_self)
      by_cases hdepth : s.actStack.length = s.params.maxActDepth
      case pos =>
        rw [dispatchBin_too_deep hb hbusy hwait hfirst hdepth] at h
        cases h
      case neg =>
        by_cases hroom : (s.thread t).bottom.toNat + (s.bin b).argSize.toNat + 4 ≤ (s.thread t).top.toNat
        case neg =>
          rw [dispatchBin_overflow hb hbusy hwait hfirst hdepth (Nat.not_le.1 hroom)] at h
          cases h
        case pos =>
          rw [dispatchBin_starts hb hbusy hwait hfirst hdepth hroom (hs.regions himage t ht).within] at h
          cases h
          exact .inr ⟨t, rest, hb', hbusy, hwait, himage, rfl, hdepth, hroom, rfl⟩

/-- Memory, after the arguments and the sentinels of a new stack are written. -/
theorem kept_newStack (hs : Invariant s) {b : Nat} (ht : t < s.threads.length) (himage : s.imageValid = true)
    (hroom : (s.thread t).bottom.toNat + (s.bin b).argSize.toNat + 4 ≤ (s.thread t).top.toNat) :
    Memory.Kept s.params.memCap s.mem (Memory.putAll s.mem (s.thread t).bottom.toNat
      (s.binBytes b (s.bin b).argSize.toNat ++ [0, 0, 0, 0])) := by
  have hwithin := (hs.regions himage t ht).within
  refine Memory.kept_putAll ?_
  simp only [List.length_append, binBytes_length, List.length_cons, List.length_nil]
  omega

theorem Invariant.of_dispatchBin (hs : Invariant s) {b : Nat} (h : dispatchBin b s = .ok q) : Invariant q := by
  obtain rfl | ⟨t, rest, hb, hbusy, hwait, himage, hfirst, hdepth, hroom, rfl⟩ := dispatchBin_eq_ok hs h
  · exact hs
  have ht : t < s.threads.length := hs.threadPool.lt t (hfirst ▸ List.mem_cons_self)
  have hpool := hs.threadPool
  rw [hfirst] at hpool
  have hfree : (s.thread t).free = true := (hs.threadPool.iff t ht).2 (hfirst ▸ List.mem_cons_self)
  have hnew : t ∉ s.actStack.map Activation.thread := fun hmem => by
    rw [(hs.busy t ht).2 hmem] at hfree
    cases hfree
  have hkept := kept_newStack hs ht himage hroom
  have hbin : ∀ P : Bin → Prop, P { s.bin b with free := true } → (∀ u < s.bins.length, P (s.bin u)) → _ :=
    fun P => forall_bin_setBin (s := s) (P := P) (b := b)
  generalize hr : ({ s.thread t with
    pc := (s.bin b).method
    sp := (s.thread t).bottom + (s.bin b).argSize + 4
    fp := (s.thread t).bottom + (s.bin b).argSize + 4
    free := false } : Thread) = r
  have hrun : r.free = false := by rw [← hr]
  have hstack : StackOk s.externB.toNat s.params.memCap r := by
    have hok := hs.regions himage t ht
    have htop := (s.thread t).top.isLt
    have hsp : r.sp.toNat = (s.thread t).bottom.toNat + (s.bin b).argSize.toNat + 4 := by
      rw [← hr]
      have hargs : ((s.thread t).bottom + (s.bin b).argSize).toNat =
          (s.thread t).bottom.toNat + (s.bin b).argSize.toNat := by
        rw [BitVec.toNat_add, Nat.mod_eq_of_lt (by omega)]
      exact (toNat_add_k (k := 4) (by omega)).trans (by rw [hargs])
    refine ⟨hr ▸ hok.above, hr ▸ hok.order, hr ▸ hok.within, fun _ => ?_⟩
    rw [hsp, ← hr]
    dsimp only
    omega
  have hsame : (s.setThread t r).thread t = r := thread_setThread_same _ _ _ ht
  have hother : ∀ u, u ≠ t → (s.setThread t r).thread u = s.thread u :=
    fun u hu => thread_setThread_other _ _ _ _ hu
  exact { hs with
    threadCount := List.length_set.trans hs.threadCount
    binCount := List.length_set.trans hs.binCount
    mem := ⟨hkept.wf hs.mem.1, hkept.within hs.mem.2⟩
    data := hbin (fun r => Memory.wf r.data = true ∧ Memory.within s.params.binCap r.data = true)
      (hs.data b hb) hs.data
    threadPool := List.length_set.symm ▸ hpool.take ((congrArg Thread.free hsame).trans hrun)
      fun u hu => congrArg Thread.free (hother u hu)
    binPool := List.length_set.symm ▸ hs.binPool.give hb hbusy (congrArg Bin.free (bin_setBin_same s b _ hb))
      fun u hu => congrArg Bin.free (bin_setBin_other s b u _ hu)
    argSize := hbin (fun r => r.argSize.toNat ≤ s.params.binCap) (hs.argSize b hb) hs.argSize
    depth := Nat.lt_of_le_of_ne hs.depth hdepth
    rooted := by
      change Machine.rooted (_ :: s.actStack) = true
      rw [Machine.rooted, Bool.and_eq_true]
      exact ⟨decide_eq_true hnew, hs.rooted⟩
    running := fun a ha => List.length_set.symm ▸ (List.mem_cons.1 ha).elim (fun h => h ▸ ht) (hs.running a)
    busy := fun u hu => by
      change ((s.setThread t r).thread u).free = false ↔ u ∈ t :: s.actStack.map Activation.thread
      rw [setThread_threads, List.length_set] at hu
      rw [List.mem_cons]
      by_cases hut : u = t
      case pos =>
        rw [hut, hsame]
        exact ⟨fun _ => .inl rfl, fun _ => hrun⟩
      case neg => rw [hother u hut, or_iff_right hut, hs.busy u hu]
    waiting := fun h => absurd h (Bool.eq_false_iff.1 hwait)
    idle := fun hi => absurd himage (Bool.eq_false_iff.1 hi)
    binsIdle := fun hi => absurd himage (Bool.eq_false_iff.1 hi)
    regions := fun hi u hu => by
      change StackOk _ _ ((s.setThread t r).thread u)
      rw [setThread_threads, List.length_set] at hu
      by_cases hut : u = t
      case pos =>
        rw [hut, hsame]
        exact hstack
      case neg =>
        rw [hother u hut]
        exact hs.regions hi u hu }

theorem Definedness.of_dispatchBin (hs : Definedness s) (hinv : Invariant s) {b : Nat}
    (h : dispatchBin b s = .ok q) : Definedness q := by
  obtain rfl | ⟨t, rest, hb, hbusy, _, himage, hfirst, _, hroom, rfl⟩ := dispatchBin_eq_ok hinv h
  · exact hs
  have ht : t < s.threads.length := hinv.threadPool.lt t (hfirst ▸ List.mem_cons_self)
  have hkept := kept_newStack hinv ht himage hroom
  exact { hs with
    confirmed := fun a ha => hkept.defined a (hs.confirmed a ha)
    image := fun hi a ha => hkept.defined a (hs.image hi a ha)
    args := forall_bin_setBin (P := fun r => r.free = false → ∀ a < r.argSize.toNat, Memory.defined r.data a)
      (fun hfree => Bool.noConfusion hfree) hs.args }

end

end Sys2Proof.Machine

/-! PROOF. The frames, the load and the step: the invariant and definedness are kept (R64, R85, R299, R350). -/

namespace Sys2Proof.Machine

section
variable {s s' q : State}

/-! ## The load (R320 to R332) -/

/-- A load that ended in a link error leaves no image. -/
theorem Invariant.of_linkFailed (hs : Invariant s) (himage : s.imageValid = false) {m : Memory}
    (hm : Memory.Kept s.params.memCap s.mem m) : Invariant (linkFailed { s with mem := m }) :=
  { hs with
    mem := ⟨hm.wf hs.mem.1, hm.within hs.mem.2⟩
    idle := fun _ => hs.idle himage
    binsIdle := fun _ => hs.binsIdle himage
    image := fun h => Bool.noConfusion h
    regions := fun h => Bool.noConfusion h }

theorem Definedness.of_linkFailed (hs : Definedness s) {m : Memory} (hm : Memory.Kept s.params.memCap s.mem m) :
    Definedness (linkFailed { s with mem := m }) :=
  { hs with
    confirmed := fun a ha => hm.defined a (hs.confirmed a ha)
    image := fun h => Bool.noConfusion h }

theorem thread_carved (p : Params) (xb : Nat) {t : Nat} (ht : t < p.nThreads) :
    (carvedThreads p xb).getD t Thread.reset = carvedThread p xb t := by
  simp [carvedThreads, List.getD_eq_getElem?_getD, ht]

/-- The bounds of the region of thread `t`, as numbers: even shares, the remainder before those of thread 1 on. -/
def carvedBottom (p : Params) (xb t : Nat) : Nat :=
  xb + (if t = 0 then 0 else (p.memCap - xb) % p.nThreads) + t * ((p.memCap - xb) / p.nThreads)

def carvedTop (p : Params) (xb t : Nat) : Nat :=
  xb + (p.memCap - xb) % p.nThreads + (t + 1) * ((p.memCap - xb) / p.nThreads)

theorem carvedBottom_le_top (p : Params) (xb t : Nat) : carvedBottom p xb t ≤ carvedTop p xb t := by
  have hshare : t * ((p.memCap - xb) / p.nThreads) ≤ (t + 1) * ((p.memCap - xb) / p.nThreads) :=
    Nat.mul_le_mul_right _ (Nat.le_succ t)
  unfold carvedBottom carvedTop
  split <;> omega

/-- The shares together are the room above the boundary. -/
theorem carvedTop_last (p : Params) {xb : Nat} (hxb : xb ≤ p.memCap) {t : Nat} (ht : t + 1 = p.nThreads) :
    carvedTop p xb t = p.memCap := by
  have hdiv := Nat.mod_add_div (p.memCap - xb) p.nThreads
  rw [carvedTop, ht]
  omega

theorem carvedTop_le (p : Params) {xb : Nat} (hxb : xb ≤ p.memCap) {t : Nat} (ht : t < p.nThreads) :
    carvedTop p xb t ≤ p.memCap := by
  have hdiv := Nat.mod_add_div (p.memCap - xb) p.nThreads
  have hshares : (t + 1) * ((p.memCap - xb) / p.nThreads) ≤ p.nThreads * ((p.memCap - xb) / p.nThreads) :=
    Nat.mul_le_mul_right _ ht
  unfold carvedTop
  omega

theorem toNat_carvedThread {p : Params} {xb t : Nat} (hok : p.ok = true) (hxb : xb ≤ p.memCap)
    (ht : t < p.nThreads) :
    (carvedThread p xb t).bottom.toNat = carvedBottom p xb t ∧ (carvedThread p xb t).top.toNat = carvedTop p xb t := by
  have htop := carvedTop_le p hxb ht
  have hbottom := carvedBottom_le_top p xb t
  obtain ⟨⟨_, hcap⟩, _⟩ := params_ok_iff.1 hok
  have heq : (if t = 0 then xb else xb + (p.memCap - xb) % p.nThreads + (p.memCap - xb) / p.nThreads * t) =
      carvedBottom p xb t := by
    rw [carvedBottom, Nat.mul_comm]
    split
    case isTrue h => simp [h]
    case isFalse => rfl
  simp only [carvedThread, heq, Nat.mul_comm _ (t + 1), BitVec.toNat_ofNat]
  rw [← carvedTop]
  exact ⟨Nat.mod_eq_of_lt (by omega), Nat.mod_eq_of_lt (by omega)⟩

/-- The regions that a link carves are stacks, all empty (R330). -/
theorem stackOk_carvedThread {p : Params} {xb t : Nat} (hok : p.ok = true) (hxb : xb ≤ p.memCap)
    (ht : t < p.nThreads) : StackOk xb p.memCap (carvedThread p xb t) := by
  obtain ⟨hbottom, htop⟩ := toNat_carvedThread hok hxb ht
  refine ⟨?_, ?_, ?_, fun h => Bool.noConfusion h⟩
  · rw [hbottom, carvedBottom]
    omega
  · rw [hbottom, htop]
    exact carvedBottom_le_top p xb t
  · rw [htop]
    exact carvedTop_le p hxb ht

/-- An image published over carved stacks, its transfer complete (R330, R331). -/
theorem Invariant.of_carved (hs : Invariant s) (himage : s.imageValid = false)
    (hall : s.confirmedReceived = s.totalLen) {m : Memory} (hm : Memory.Kept s.params.memCap s.mem m)
    (hps : (s.valueAt 16 2).toNat ≤ (s.valueAt 16 6).toNat)
    (hxb : (s.valueAt 16 6).toNat ≤ s.totalLen.toNat) : Invariant (s.carved m) := by
  obtain ⟨hact, hwait, hcb⟩ := hs.idle himage
  have hcap := hxb.trans hs.total
  have hlength : (s.carved m).threads.length = s.params.nThreads := by
    simp [State.carved, carveStacks, carvedThreads]
  have hthread : ∀ u < s.params.nThreads, (s.carved m).thread u = carvedThread s.params (s.valueAt 16 6).toNat u :=
    fun u hu => thread_carved _ _ hu
  have hzeroed : Memory.Kept s.params.memCap m (s.carved m).mem :=
    Memory.kept_putAll (by rw [List.length_replicate]; exact (Nat.add_sub_of_le hcap).le)
  exact { hs with
    threadCount := hlength
    mem := ⟨hzeroed.wf (hm.wf hs.mem.1), hzeroed.within (hm.within hs.mem.2)⟩
    threadPool := hlength.symm ▸ FreeList.range fun u hu => congrArg Thread.free (hthread u hu)
    running := fun a ha => by
      rw [show (s.carved m).actStack = [] from hact] at ha
      cases ha
    busy := fun u hu => by
      rw [hthread u (hlength ▸ hu), show (s.carved m).actStack = [] from hact]
      exact ⟨fun h => Bool.noConfusion h, fun h => nomatch h⟩
    idle := fun h => Bool.noConfusion h
    binsIdle := fun h => Bool.noConfusion h
    image := fun _ => ⟨hps, hcap, hall⟩
    regions := fun _ u hu => by
      rw [hthread u (hlength ▸ hu)]
      exact stackOk_carvedThread hs.ok hcap (hlength ▸ hu) }

/-- Below the boundary the image has been received, above it the stacks have been zeroed. -/
theorem Definedness.of_carved (hs : Definedness s) (hall : s.confirmedReceived = s.totalLen) {m : Memory}
    (hm : Memory.Kept s.params.memCap s.mem m) (hxb : (s.valueAt 16 6).toNat ≤ s.totalLen.toNat) :
    Definedness (s.carved m) := by
  have hkept : ∀ a, Memory.defined m a → Memory.defined (s.carved m).mem a :=
    fun a => Memory.isSome_get?_putAll _ _ _ a
  exact { hs with
    confirmed := fun a ha => hkept a (hm.defined a (hs.confirmed a ha))
    image := fun _ a ha => by
      by_cases hlow : a < (s.valueAt 16 6).toNat
      case pos =>
        have hreceived : a < s.confirmedReceived.toNat := by
          rw [hall]
          omega
        exact hkept a (hm.defined a (hs.confirmed a hreceived))
      case neg =>
        obtain ⟨j, rfl⟩ := Nat.exists_eq_add_of_le (Nat.not_lt.1 hlow)
        have hroom : j < (List.replicate (s.params.memCap - (s.valueAt 16 6).toNat) (0 : Byte)).length := by
          rw [List.length_replicate]
          exact Nat.lt_sub_of_add_lt (Nat.add_comm _ _ ▸ ha)
        exact Option.isSome_iff_exists.2 ⟨_, Memory.get?_putAll_inside m _ _ j hroom⟩ }

/-- A load of a complete transfer while no image is valid. -/
theorem Invariant.of_load (hs : Invariant s) (himage : s.imageValid = false)
    (hall : s.confirmedReceived = s.totalLen) (h : load s = .ok q) : Invariant q := by
  obtain ⟨m, hm, rfl | ⟨hps, hxb, hissue⟩⟩ := load_eq_ok h
  · exact hs.of_linkFailed himage (hm hs.total)
  · exact (hs.of_carved himage hall (hm hs.total) hps hxb).of_issueAsync rfl (Nat.zero_le _) hissue

theorem Definedness.of_load (hs : Definedness s) (hinv : Invariant s) (hall : s.confirmedReceived = s.totalLen)
    (h : load s = .ok q) : Definedness q := by
  obtain ⟨m, hm, rfl | ⟨_, hxb, hissue⟩⟩ := load_eq_ok h
  · exact hs.of_linkFailed (hm hinv.total)
  · exact (hs.of_carved hall (hm hinv.total) hxb).of_issueAsync hinv.binPool.lt hissue

/-! ## Segments (R296 to R300) -/

theorem Invariant.of_sendAck (hs : Invariant s) : Invariant (sendAck s) := by
  cases hq : enqueue (wireFrame (ackBody s.confirmedReceived)) s with
  | none => exact (sendAck_lost hq).symm ▸ hs
  | some q => exact (sendAck_taken hq).symm ▸ hs.of_enqueue hq

theorem Definedness.of_sendAck (hs : Definedness s) : Definedness (sendAck s) := by
  cases hq : enqueue (wireFrame (ackBody s.confirmedReceived)) s with
  | none => exact (sendAck_lost hq).symm ▸ hs
  | some q => exact (sendAck_taken hq).symm ▸ hs.of_enqueue hq

section
variable {off : Nat} {data : List Byte}

theorem withData_imageValid : (s.withData off data).imageValid = s.imageValid := by
  rw [State.withData, sendAck_frame]
  rfl

theorem withData_confirmedReceived :
    (s.withData off data).confirmedReceived = BitVec.ofNat 16 (off + data.length) :=
  sendAck_confirmedReceived _

theorem withData_totalLen : (s.withData off data).totalLen = s.totalLen := sendAck_totalLen _

/-- Data that fit the announced length, taken while no image is valid (R64 e). -/
theorem Invariant.of_withData (hs : Invariant s) (himage : s.imageValid = false)
    (hfits : off + data.length ≤ s.totalLen.toNat) : Invariant (s.withData off data) := by
  have hkept : Memory.Kept s.params.memCap s.mem (Memory.putAll s.mem off data) :=
    Memory.kept_putAll (hfits.trans hs.total)
  have hwritten : Invariant { s.writeBytes off data with confirmedReceived := BitVec.ofNat 16 (off + data.length) } :=
    { hs with
      mem := ⟨hkept.wf hs.mem.1, hkept.within hs.mem.2⟩
      image := fun hi => absurd hi (Bool.eq_false_iff.1 himage)
      regions := fun hi => absurd hi (Bool.eq_false_iff.1 himage)
      confirmed := (toNat_ofNat_le _ _).trans hfits }
  exact hwritten.of_sendAck

/-- Data without a gap before them extend the confirmed prefix (R297, R298). -/
theorem Definedness.of_withData (hs : Definedness s) (hnear : off ≤ s.confirmedReceived.toNat) :
    Definedness (s.withData off data) := by
  have hkept : ∀ a, Memory.defined s.mem a → Memory.defined (Memory.putAll s.mem off data) a :=
    fun a => Memory.isSome_get?_putAll _ _ _ a
  have hwritten : Definedness
      { s.writeBytes off data with confirmedReceived := BitVec.ofNat 16 (off + data.length) } :=
    { hs with
      confirmed := fun a ha => by
        have hlt : a < off + data.length := Nat.lt_of_lt_of_le ha (toNat_ofNat_le _ _)
        by_cases hold : a < off
        case pos => exact hkept a (hs.confirmed a (hold.trans_le hnear))
        case neg =>
          obtain ⟨j, rfl⟩ := Nat.exists_eq_add_of_le (Nat.not_lt.1 hold)
          exact Option.isSome_iff_exists.2 ⟨_, Memory.get?_putAll_inside s.mem off data j (by omega)⟩
      image := fun hi a ha => hkept a (hs.image hi a ha) }
  exact hwritten.of_sendAck

theorem Invariant.of_acceptData (hs : Invariant s) (himage : s.imageValid = false)
    (hfits : off + data.length ≤ s.totalLen.toNat) (h : acceptData off data s = .ok q) : Invariant q := by
  have hdata := hs.of_withData himage hfits
  obtain rfl | ⟨hall, hload⟩ := acceptData_eq_ok h
  · exact hdata
  · exact hdata.of_load (withData_imageValid.trans himage)
      (withData_confirmedReceived.trans (hall.trans withData_totalLen.symm)) hload

theorem Definedness.of_acceptData (hs : Definedness s) (hinv : Invariant s) (himage : s.imageValid = false)
    (hnear : off ≤ s.confirmedReceived.toNat) (hfits : off + data.length ≤ s.totalLen.toNat)
    (h : acceptData off data s = .ok q) : Definedness q := by
  have hdata := hs.of_withData (data := data) hnear
  obtain rfl | ⟨hall, hload⟩ := acceptData_eq_ok h
  · exact hdata
  · exact hdata.of_load (hinv.of_withData himage hfits)
      (withData_confirmedReceived.trans (hall.trans withData_totalLen.symm)) hload

end

/-- A transfer begins in a quiescent block, and takes away image and callback (R296). -/
theorem Invariant.of_beginTransfer (hs : Invariant s) {total : Word} (hcap : total.toNat ≤ s.params.memCap)
    (hquiet : Quiescent s) : Invariant (s.beginTransfer total) := by
  obtain ⟨hact, hwait, _, hbins⟩ := hquiet
  exact { hs with
    idle := fun _ => ⟨hact, hwait, rfl⟩
    binsIdle := fun _ => forall_bins_iff.1 hbins
    image := fun h => Bool.noConfusion h
    regions := fun h => Bool.noConfusion h
    confirmed := Nat.zero_le _
    total := hcap }

theorem Definedness.of_beginTransfer (hs : Definedness s) (total : Word) : Definedness (s.beginTransfer total) :=
  { hs with
    confirmed := fun a ha => absurd ha (Nat.not_lt_zero a)
    image := fun h => Bool.noConfusion h }

/-- While the transfer is incomplete no image is valid (R298). -/
theorem Invariant.imageValid_of_incomplete (hs : Invariant s)
    (h : s.confirmedReceived.toNat < s.totalLen.toNat) : s.imageValid = false := by
  cases himage : s.imageValid with
  | false => rfl
  | true => exact absurd (hs.image himage).2.2 fun he => by rw [he] at h; exact absurd h (Nat.lt_irrefl _)

/-- A callback is registered only under an image (R296). -/
theorem Invariant.imageValid_of_callback (hs : Invariant s) (h : s.cbValid = true) : s.imageValid = true := by
  cases himage : s.imageValid with
  | true => rfl
  | false => exact absurd h (Bool.eq_false_iff.1 (hs.idle himage).2.2)

/-! ## Frames (R264, R270) -/

theorem Invariant.of_frame (hs : Invariant s) {f : List Byte} (h : FrameEffect s f q) : Invariant q := by
  cases h with
  | dropped => exact hs
  | acked => exact hs.of_sendAck
  | begun _ hcap hlen hquiet h =>
    exact (hs.of_beginTransfer hcap hquiet).of_acceptData rfl ((Nat.zero_add _).trans_le hlen) h
  | continued _ hnew hfits h =>
    exact hs.of_acceptData (hs.imageValid_of_incomplete (hnew.trans_le hfits)) hfits h
  | reset => exact { hs.of_restart with ok := hs.ok }
  | delivered hcb hsize h => exact hs.of_issueAsync (hs.imageValid_of_callback hcb) hsize h

theorem Definedness.of_frame (hs : Definedness s) (hinv : Invariant s) {f : List Byte} (h : FrameEffect s f q) :
    Definedness q := by
  cases h with
  | dropped => exact hs
  | acked => exact hs.of_sendAck
  | begun _ hcap hlen hquiet h =>
    exact (hs.of_beginTransfer _).of_acceptData (hinv.of_beginTransfer hcap hquiet) rfl (Nat.zero_le _)
      ((Nat.zero_add _).trans_le hlen) h
  | continued hnear hnew hfits h =>
    exact hs.of_acceptData hinv (hinv.imageValid_of_incomplete (hnew.trans_le hfits)) hnear hfits h
  | reset => exact { Definedness.of_restart s with confirmed := (Definedness.of_restart s).confirmed }
  | delivered _ _ h => exact hs.of_issueAsync hinv.binPool.lt h

/-- A byte received without a fault: an escape, a data byte, an opening delimiter, or a closing one with the frame
that it closes, if it closes one (R264). -/
theorem rxByte_eq_ok {b : Byte} (h : rxByte b s = .ok q) :
    q = { s with escPending := true } ∨ (∃ d, q = rxData d { s with escPending := false }) ∨
    (∃ fstate, q = { s with fstate := fstate, flen := 0, fovf := false }) ∨
    (s.escPending = false ∧ b = 0x7E ∧ s.fstate = .inFrame ∧ s.fovf = false ∧ 0 < s.flen ∧
      ∃ q', FrameEffect { s with fstate := .idle } s.frame q' ∧ q = { q' with flen := 0, fovf := false }) := by
  unfold rxByte at h
  split at h
  case isTrue =>
    cases h
    exact .inr (.inl ⟨_, rfl⟩)
  case isFalse hesc =>
    have hesc' := Bool.eq_false_iff.2 hesc
    split at h
    case isTrue =>
      cases h
      exact .inl rfl
    case isFalse =>
      split at h
      case isFalse =>
        cases h
        refine .inr (.inl ⟨b, ?_⟩)
        rw [← hesc']
      case isTrue hdelim =>
        unfold rxDelim at h
        cases hstate : s.fstate with
        | idle =>
          simp only [hstate] at h
          cases h
          exact .inr (.inr (.inl ⟨_, rfl⟩))
        | inFrame =>
          simp only [hstate] at h
          obtain ⟨q', hq', h⟩ := bind_eq_ok.1 h
          cases h
          split at hq'
          case isTrue =>
            cases hq'
            exact .inr (.inr (.inl ⟨_, rfl⟩))
          case isFalse hlen =>
            split at hq'
            case isTrue =>
              cases hq'
              exact .inr (.inr (.inl ⟨_, rfl⟩))
            case isFalse hovf =>
              exact .inr (.inr (.inr ⟨hesc', hdelim, rfl, Bool.eq_false_iff.2 hovf, Nat.pos_of_ne_zero hlen, q',
                frameComplete_effect hq', rfl⟩))

theorem Invariant.of_rxData (hs : Invariant s) (d : Byte) : Invariant (rxData d s) := by
  unfold rxData
  split
  case h_1 => exact hs
  case h_2 =>
    split
    case isTrue hroom =>
      exact { hs with
        fbuf := ⟨Memory.wf_put _ _ _ hs.fbuf.1, Memory.within_put _ _ _ _ hroom hs.fbuf.2⟩
        flen := hroom }
    case isFalse => exact { hs with ok := hs.ok }

theorem Definedness.of_rxData (hs : Definedness s) (d : Byte) : Definedness (rxData d s) := by
  unfold rxData
  split
  case h_1 => exact hs
  case h_2 =>
    split
    case isTrue =>
      exact { hs with
        fbuf := fun a ha => by
          obtain hold | rfl := Nat.lt_succ_iff_lt_or_eq.1 ha
          · exact Memory.isSome_get?_put _ _ _ _ (hs.fbuf a hold)
          · exact Option.isSome_iff_exists.2 ⟨d, Memory.get?_put_same _ _ _⟩ }
    case isFalse => exact { hs with confirmed := hs.confirmed }

theorem Invariant.of_rxByte (hs : Invariant s) {b : Byte} (h : rxByte b s = .ok q) : Invariant q := by
  obtain rfl | ⟨d, rfl⟩ | ⟨_, rfl⟩ | ⟨_, _, _, _, _, q', hframe, rfl⟩ := rxByte_eq_ok h
  · exact { hs with ok := hs.ok }
  · have hdata : Invariant { s with escPending := false } := { hs with ok := hs.ok }
    exact hdata.of_rxData d
  · exact { hs with flen := Nat.zero_le _ }
  · have hidle : Invariant { s with fstate := .idle } := { hs with ok := hs.ok }
    exact { hidle.of_frame hframe with flen := Nat.zero_le _ }

theorem Definedness.of_rxByte (hs : Definedness s) (hinv : Invariant s) {b : Byte} (h : rxByte b s = .ok q) :
    Definedness q := by
  obtain rfl | ⟨d, rfl⟩ | ⟨_, rfl⟩ | ⟨_, _, _, _, _, q', hframe, rfl⟩ := rxByte_eq_ok h
  · exact { hs with confirmed := hs.confirmed }
  · have hdata : Definedness { s with escPending := false } := { hs with confirmed := hs.confirmed }
    exact hdata.of_rxData d
  · exact { hs with fbuf := fun a ha => absurd ha (Nat.not_lt_zero a) }
  · have hidle : Definedness { s with fstate := .idle } := { hs with confirmed := hs.confirmed }
    have hframe' := hidle.of_frame { hinv with ok := hinv.ok } hframe
    exact { hframe' with fbuf := fun a ha => absurd ha (Nat.not_lt_zero a) }

/-! ## Events (R62) -/

/-- What the receive timeout and the ends of a wait and of a transmission do. -/
theorem rxTimeout_cases (s : State) : rxTimeout s = s ∨ rxTimeout s = { s with escPending := false } ∨
    rxTimeout s = { s with fstate := .idle, flen := 0, fovf := false, escPending := false } := by
  unfold rxTimeout
  split
  · exact .inl rfl
  · split
    · exact .inr (.inr rfl)
    · exact .inr (.inl rfl)

theorem Invariant.of_rxTimeout (hs : Invariant s) : Invariant (rxTimeout s) := by
  obtain h | h | h := rxTimeout_cases s <;> rw [h]
  · exact hs
  · exact { hs with ok := hs.ok }
  · exact { hs with flen := Nat.zero_le _ }

theorem Definedness.of_rxTimeout (hs : Definedness s) : Definedness (rxTimeout s) := by
  obtain h | h | h := rxTimeout_cases s <;> rw [h]
  · exact hs
  · exact { hs with confirmed := hs.confirmed }
  · exact { hs with fbuf := fun a ha => absurd ha (Nat.not_lt_zero a) }

theorem Invariant.of_txComplete (hs : Invariant s) : Invariant (txComplete s) := by
  cases hactive : s.txActive with
  | false => exact (txComplete_spurious hactive).symm ▸ hs
  | true =>
    obtain hcount | hcount := Nat.eq_zero_or_pos s.txCount
    · rw [txComplete_drained hactive hcount]
      exact { hs with txIdle := fun _ => hcount }
    · rw [txComplete_shifts hactive hcount]
      exact hs.of_txShift hactive

theorem Definedness.of_txComplete (hs : Definedness s) : Definedness (txComplete s) := by
  cases hactive : s.txActive with
  | false => exact (txComplete_spurious hactive).symm ▸ hs
  | true =>
    obtain hcount | hcount := Nat.eq_zero_or_pos s.txCount
    · rw [txComplete_drained hactive hcount]
      exact { hs with confirmed := hs.confirmed }
    · rw [txComplete_shifts hactive hcount]
      exact hs.of_txShift

theorem Invariant.of_syncEnter (hs : Invariant s) : Invariant (syncEnter s) := by
  unfold syncEnter
  split
  · exact { hs with
      waiting := fun h => Bool.noConfusion h
      idle := fun hi => ⟨(hs.idle hi).1, rfl, (hs.idle hi).2.2⟩ }
  · exact hs

theorem Definedness.of_syncEnter (hs : Definedness s) : Definedness (syncEnter s) := by
  unfold syncEnter
  split
  · exact { hs with confirmed := hs.confirmed }
  · exact hs

theorem Invariant.of_handleInput (hs : Invariant s) {e : Input} (h : handleInput e s = .ok q) : Invariant q := by
  cases e with
  | rst =>
    cases h
    exact hs.of_restart
  | rxByte b => exact hs.of_rxByte h
  | rxTimeout =>
    cases h
    exact hs.of_rxTimeout
  | txComplete =>
    cases h
    exact hs.of_txComplete
  | dispatch b => exact hs.of_dispatchBin h
  | syncEnter =>
    cases h
    exact hs.of_syncEnter

theorem Definedness.of_handleInput (hs : Definedness s) (hinv : Invariant s) {e : Input}
    (h : handleInput e s = .ok q) : Definedness q := by
  cases e with
  | rst =>
    cases h
    exact .of_restart s
  | rxByte b => exact hs.of_rxByte hinv h
  | rxTimeout =>
    cases h
    exact hs.of_rxTimeout
  | txComplete =>
    cases h
    exact hs.of_txComplete
  | dispatch b => exact hs.of_dispatchBin hinv h
  | syncEnter =>
    cases h
    exact hs.of_syncEnter

/-- An event is ignored, or takes a fault, or is handled (R371). -/
theorem inputEvent_cases (e : Input) (s : State) : inputEvent e s = s ∨
    (∃ f, handleInput e s = .error f ∧ inputEvent e s = raiseFault f s) ∨ handleInput e s = .ok (inputEvent e s) := by
  unfold inputEvent
  split
  · exact .inl rfl
  · obtain ⟨q, hok, hq⟩ | ⟨f, herror, hq⟩ := settle_cases s (handleInput e s)
    · exact .inr (.inr (hq.symm ▸ hok))
    · exact .inr (.inl ⟨f, herror, hq⟩)

theorem Invariant.of_inputEvent (hs : Invariant s) (e : Input) : Invariant (inputEvent e s) := by
  obtain h | ⟨f, _, h⟩ | h := inputEvent_cases e s
  · rwa [h]
  · rw [h]
    exact hs.of_raiseFault f
  · exact hs.of_handleInput h

theorem Definedness.of_inputEvent (hs : Definedness s) (hinv : Invariant s) (e : Input) :
    Definedness (inputEvent e s) := by
  obtain h | ⟨f, _, h⟩ | h := inputEvent_cases e s
  · rwa [h]
  · rw [h]
    exact hs.of_raiseFault f
  · exact hs.of_handleInput hinv h

/-! ## The step -/

/-- The list of events plays no part in the invariant. -/
theorem Invariant.with_inputs (hs : Invariant s) (es : List Event) : Invariant { s with inputs := es } :=
  { hs with ok := hs.ok }

theorem Definedness.with_inputs (hs : Definedness s) (es : List Event) : Definedness { s with inputs := es } :=
  { hs with confirmed := hs.confirmed }

end

/-- Settles O58: power-up leaves every pool free and nothing received. -/
theorem invariantAtReset : Obligations.InvariantAtReset :=
  ⟨inv_iff.2 (.boot rfl), definedOk_iff.2 (.boot _)⟩

/-- Settles O59: the interpreter's turn by what an instruction can do, an event by what a frame can do. -/
theorem invariantIsKept : Obligations.InvariantIsKept := by
  intro s s' hinv h
  have hs := inv_iff.1 hinv
  refine inv_iff.2 ?_
  obtain hstep | ⟨e, rest, _, rfl⟩ := step_eq_next h
  · exact (hs.with_inputs _).of_stepEvent hstep
  · exact (hs.with_inputs _).of_inputEvent e

/-- Settles O60, along the same cases: what becomes readable has just been written. -/
theorem definednessIsKept : Obligations.DefinednessIsKept := by
  intro s s' hinv hdefined h
  have hi := inv_iff.1 hinv
  have hs := definedOk_iff.1 hdefined
  refine definedOk_iff.2 ?_
  obtain hstep | ⟨e, rest, _, rfl⟩ := step_eq_next h
  · exact (hs.with_inputs _).of_stepEvent (hi.with_inputs _) hstep
  · exact (hs.with_inputs _).of_inputEvent (hi.with_inputs _) e

end Sys2Proof.Machine

/-! PROOF. What no instruction touches (R31, R46, R49, R51, R70), faulting steps (R371), the fetch (R104), and the
instructions of 41 to 43 that the families before leave: shifts, LED, and calls followed by their returns. -/

namespace Sys2Proof.Machine

section
variable {s s' q : State} {t : Nat} {i : Instr}

/-! ## The frame of an instruction -/

/-- Beside memory and records an instruction that takes no fault can change the pools, the activations, the devices
and the outputs. -/
theorem Effect.frame (h : Effect i s t s') : s' = { s with
    mem := s'.mem, threads := s'.threads, threadFree := s'.threadFree, bins := s'.bins, binFree := s'.binFree
    actStack := s'.actStack, syncWait := s'.syncWait, led := s'.led, cbValid := s'.cbValid, cbObj := s'.cbObj
    cbMethod := s'.cbMethod, ring := s'.ring, txHead := s'.txHead, txCount := s'.txCount, txActive := s'.txActive
    outputs := s'.outputs } := by
  obtain ⟨s0, hbook, hlocal⟩ := h
  obtain ⟨m, ts, rfl⟩ := hlocal.exists_eq
  cases hbook with
  | none => rfl
  | device hdev =>
    cases hdev with
    | led v => rfl
    | callback obj method => rfl
    | queued hq => rw [enqueue_frame hq]
    | busy => rfl
  | syncBegin _ _ => rfl
  | issue hissue _ => rw [issueAsync_frame hissue]
  | syncEnd _ _ => rfl
  | rootEnd _ _ => rfl

/-- An instruction other than ECALL leaves the devices. -/
theorem Effect.devices (h : Effect i s t s') (hi : ∀ id, i ≠ .ecall id) : s' = { s' with
    led := s.led, cbValid := s.cbValid, cbObj := s.cbObj, cbMethod := s.cbMethod, ring := s.ring
    txHead := s.txHead, txCount := s.txCount, txActive := s.txActive } := by
  obtain ⟨s0, hbook, hlocal⟩ := h
  obtain ⟨m, ts, rfl⟩ := hlocal.exists_eq
  cases hbook with
  | none => rfl
  | device _ => exact absurd rfl (hi _)
  | syncBegin _ _ => rfl
  | issue hissue _ => rw [issueAsync_frame hissue]
  | syncEnd _ _ => rfl
  | rootEnd _ _ => rfl

theorem exec_frame (h : exec i s = .next s') : s' = { s with
    mem := s'.mem, threads := s'.threads, threadFree := s'.threadFree, bins := s'.bins, binFree := s'.binFree
    actStack := s'.actStack, syncWait := s'.syncWait, led := s'.led, cbValid := s'.cbValid, cbObj := s'.cbObj
    cbMethod := s'.cbMethod, ring := s'.ring, txHead := s'.txHead, txCount := s'.txCount, txActive := s'.txActive
    fault := s'.fault, outputs := s'.outputs } := by
  obtain ⟨t, _, ⟨f, rfl⟩ | heffect⟩ := exec_eq_next h
  · rfl
  · rw [heffect.frame]

/-- The records after an instruction: the current one keeps its bounds, the others are as before. -/
theorem Effect.threads (hcur : s.cur? = some t) (h : Effect i s t s') :
    s'.threads.length = s.threads.length ∧ (∀ u, u ≠ t → s'.thread u = s.thread u) ∧
      (s'.thread t).bottom = (s.thread t).bottom ∧ (s'.thread t).top = (s.thread t).top := by
  obtain ⟨s0, hbook, hlocal⟩ := h
  have hpool : s0.threads = s.threads ∨ s0.threads = s.threads.set t { s.thread t with free := true } := by
    cases hbook with
    | none => exact .inl rfl
    | device hdev => exact .inl hdev.same_store.2.1
    | syncBegin _ _ => exact .inl rfl
    | issue hissue _ =>
      rw [issueAsync_frame hissue]
      exact .inl rfl
    | syncEnd _ _ => exact .inl rfl
    | rootEnd hact _ => exact .inr (by rw [← thread_of_top hcur hact]; rfl)
  have hsame : s0.threads.length = s.threads.length ∧ (∀ u, u ≠ t → s0.thread u = s.thread u) ∧
      (s0.thread t).bottom = (s.thread t).bottom ∧ (s0.thread t).top = (s.thread t).top := by
    obtain hpool | hpool := hpool
    · simp only [State.thread, hpool]
      exact ⟨trivial, fun _ _ => trivial, trivial, trivial⟩
    · have hth : ∀ u, s0.thread u = (s.setThread t { s.thread t with free := true }).thread u := fun u => by
        rw [State.thread, hpool]
        rfl
      rw [hpool, hth t, thread_setThread_same _ _ _ (cur?_lt hcur)]
      exact ⟨List.length_set, fun u hu => (hth u).trans (thread_setThread_other _ _ _ _ hu), rfl, rfl⟩
  obtain ⟨hlength, hothers, hbottom, htop⟩ := hsame
  exact ⟨hlocal.length.trans hlength, fun u hu => (hlocal.others u hu).trans (hothers u hu),
    hlocal.bottom.trans hbottom, hlocal.top.trans htop⟩

end

/-- Settles O56: the frame of an instruction, and of one that is no ECALL. -/
theorem instructionsLeaveTheLink : Obligations.InstructionsLeaveTheLink := by
  intro i s s' h
  have hframe := exec_frame h
  refine ⟨?_, ?_, ?_, ?_, fun hi => ?devices⟩
  case devices =>
    obtain ⟨t, _, ⟨f, rfl⟩ | heffect⟩ := exec_eq_next h
    · exact ⟨rfl, rfl, rfl, rfl, rfl, rfl, rfl, rfl⟩
    · rw [heffect.devices hi]
      exact ⟨rfl, rfl, rfl, rfl, rfl, rfl, rfl, rfl⟩
  all_goals rw [hframe]
  · exact ⟨rfl, rfl, rfl, rfl, rfl⟩
  · exact ⟨rfl, rfl⟩
  · exact ⟨rfl, rfl, rfl, rfl⟩
  · exact ⟨rfl, rfl, rfl⟩

/-- Settles O57: a fault moves no record, and an effect the current one only. -/
theorem instructionsLeaveOtherThreads : Obligations.InstructionsLeaveOtherThreads := by
  intro i s s' t hcur h
  obtain ⟨t', hcur', ⟨f, rfl⟩ | heffect⟩ := exec_eq_next h
  · exact ⟨rfl, fun _ _ => rfl, rfl, rfl⟩
  · cases hcur.symm.trans hcur'
    exact heffect.threads hcur

/-- Settles O33: every meaning is an operation run on the current thread. -/
theorem onlyMissingThreadStops : Obligations.OnlyMissingThreadStops := by
  intro i s
  obtain ⟨op, hop, _⟩ := exec_hasEffect i s
  rw [hop]
  exact ⟨fun hnone => by rw [runInstr, hnone], fun t hcur => ⟨_, runInstr_of_cur hcur op⟩⟩

/-! ## Faults (R371) -/

section
variable {s s' q : State}

/-- The boundary of what a load can change, whatever the sizes (R320). -/
theorem load_frame (h : load s = .ok q) : q = { s with
    mem := q.mem, threads := q.threads, threadFree := q.threadFree, bins := q.bins, binFree := q.binFree
    progStart := q.progStart, externB := q.externB, imageValid := q.imageValid, linkError := q.linkError
    outputs := q.outputs } := by
  obtain ⟨m, _, rfl | ⟨_, _, hissue⟩⟩ := load_eq_ok h
  · rfl
  · rw [issueAsync_frame hissue]
    rfl

/-- Accepted data leave the fault register and the announced length, and confirm up to their end. -/
theorem acceptData_session {off : Nat} {data : List Byte} (h : acceptData off data s = .ok q) :
    q.fault = s.fault ∧ q.totalLen = s.totalLen ∧ q.confirmedReceived = BitVec.ofNat 16 (off + data.length) := by
  have hdata : (s.withData off data).fault = s.fault := by
    rw [State.withData, sendAck_frame]
    rfl
  obtain rfl | ⟨_, hload⟩ := acceptData_eq_ok h
  · exact ⟨hdata, withData_totalLen, withData_confirmedReceived⟩
  · rw [load_frame hload]
    exact ⟨hdata, withData_totalLen, withData_confirmedReceived⟩

/-- A dispatch moves bins, activations, records and memory (R244). -/
theorem dispatchBin_frame {b : Nat} (h : dispatchBin b s = .ok q) : q = { s with
    mem := q.mem, threads := q.threads, threadFree := q.threadFree, bins := q.bins, binFree := q.binFree
    actStack := q.actStack } := by
  unfold dispatchBin at h
  split at h
  case isTrue =>
    cases h
    rfl
  case isFalse =>
    obtain ⟨⟨t, s1⟩, halloc, h⟩ := bind_eq_ok.1 h
    have hs1 : s1 = { s with threads := s1.threads, threadFree := s1.threadFree } := by
      split at halloc
      · cases halloc
      · split at halloc
        · cases halloc
        · obtain ⟨rest, _, rfl⟩ := allocThread_eq_ok.1 halloc
          rfl
    simp only at h
    split at h
    case isTrue => cases h
    case isFalse =>
      obtain ⟨s3, hzero, h⟩ := bind_eq_ok.1 h
      obtain ⟨s4, hzero2, h⟩ := bind_eq_ok.1 h
      cases h
      obtain ⟨_, rfl⟩ := memWrite_eq_ok.1 hzero
      obtain ⟨_, rfl⟩ := memWrite_eq_ok.1 hzero2
      rw [hs1]
      rfl

/-- An event other than `Rst` and `RxByte`, handled, leaves the fault register and the session. -/
theorem handleInput_session {e : Input} (hrst : e ≠ .rst) (hrx : ∀ b, e ≠ .rxByte b)
    (h : handleInput e s = .ok q) :
    q.fault = s.fault ∧ q.confirmedReceived = s.confirmedReceived ∧ q.totalLen = s.totalLen := by
  cases e with
  | rst => exact absurd rfl hrst
  | rxByte b => exact absurd rfl (hrx b)
  | rxTimeout =>
    cases h
    obtain h | h | h := rxTimeout_cases s <;> rw [h] <;> exact ⟨rfl, rfl, rfl⟩
  | txComplete =>
    cases h
    unfold txComplete
    split
    · exact ⟨rfl, rfl, rfl⟩
    · split <;> exact ⟨rfl, rfl, rfl⟩
  | dispatch b =>
    rw [dispatchBin_frame h]
    exact ⟨rfl, rfl, rfl⟩
  | syncEnter =>
    cases h
    unfold syncEnter
    split <;> exact ⟨rfl, rfl, rfl⟩

/-- A frame that raises no fault records none. -/
theorem FrameEffect.alive {f : List Byte} (h : FrameEffect s f q) (halive : s.Alive) : q.Alive := by
  cases h with
  | dropped => exact halive
  | acked =>
    rw [sendAck_frame]
    exact halive
  | begun _ _ _ _ h => exact (congrArg FaultReg.valid (acceptData_session h).1).trans halive
  | continued _ _ _ h => exact (congrArg FaultReg.valid (acceptData_session h).1).trans halive
  | reset => rfl
  | delivered _ _ h =>
    rw [issueAsync_frame h]
    exact halive

@[simp] theorem rxData_fault (d : Byte) (s : State) : (rxData d s).fault = s.fault := by
  unfold rxData
  split
  · rfl
  · split <;> rfl

/-- An event handled without a fault records none. -/
theorem handleInput_alive {e : Input} (halive : s.Alive) (h : handleInput e s = .ok q) : q.Alive := by
  by_cases hrst : e = .rst
  case pos =>
    subst hrst
    cases h
    rfl
  by_cases hrx : ∃ b, e = .rxByte b
  case neg =>
    exact (congrArg FaultReg.valid (handleInput_session hrst (not_exists.1 hrx) h).1).trans halive
  obtain ⟨b, rfl⟩ := hrx
  obtain rfl | ⟨d, rfl⟩ | ⟨_, rfl⟩ | ⟨_, _, _, _, _, q', hframe, rfl⟩ := rxByte_eq_ok h
  · exact halive
  · exact (congrArg FaultReg.valid (rxData_fault d _)).trans halive
  · exact halive
  · exact hframe.alive halive

/-- An event after which a fault is recorded has raised it. -/
theorem inputEvent_fault {e : Input} (halive : s.Alive) (h : (inputEvent e s).fault.valid = true) :
    ∃ f, inputEvent e s = faultedNow s f := by
  obtain hsame | ⟨f, _, hraise⟩ | hok := inputEvent_cases e s
  · rw [hsame, halive] at h
    cases h
  · exact ⟨f, hraise.trans (raiseFault_eq_faultedNow s f)⟩
  · rw [handleInput_alive halive hok] at h
    cases h

/-- The same of the interpreter's turn. -/
theorem stepEvent_fault (halive : s.Alive) (hstep : stepEvent s = .next s') (h : s'.fault.valid = true) :
    ∃ f, s' = faultedNow s f := by
  obtain rfl | ⟨f, rfl⟩ | ⟨i, _, _, hexec⟩ := stepEvent_eq_next hstep
  · rw [halive] at h
    cases h
  · exact ⟨f, raiseFault_eq_faultedNow s f⟩
  · obtain ⟨t, _, ⟨f, rfl⟩ | heffect⟩ := exec_eq_next hexec
    · exact ⟨f, raiseFault_eq_faultedNow s f⟩
    · rw [heffect.frame] at h
      exact absurd h (Bool.eq_false_iff.1 halive)

end

/-- Settles O35: whatever completes records no fault, so a step that records one is the fault alone. -/
theorem faultedStepIsUndone : Obligations.FaultedStepIsUndone := by
  intro s s' halive hstep h
  obtain hturn | ⟨e, rest, hinputs, rfl⟩ := step_eq_next hstep
  · exact stepEvent_fault halive hturn h
  · rw [hinputs, List.tail_cons]
    exact inputEvent_fault halive h

/-- Settles O34: neither an event nor the interpreter's turn is enabled. -/
theorem faultIsSticky : Obligations.FaultIsSticky := by
  intro s hfault
  refine ⟨fun e he => inputEvent_of_faulted hfault he, fun hinputs => ?_⟩
  have hdisabled : ¬ s.stepEnabled = true := fun h => by
    rw [(stepEnabled_iff.1 h).1] at hfault
    cases hfault
  rw [step, hinputs]
  exact if_neg hdisabled

/-- Settles O27: the wait disables the interpreter's turn and `Dispatch`, and `SyncEnter` ends it. -/
theorem syncWindow : Obligations.SyncWindow := by
  intro s halive
  have hevent : inputEvent .syncEnter s = syncEnter s := inputEvent_of_alive halive
  rw [hevent]
  refine ⟨fun hwait => ⟨if_pos hwait, fun hinputs => ?turn, fun b => ?dispatch⟩,
    fun hwait => if_neg (Bool.eq_false_iff.1 hwait)⟩
  case turn =>
    have hdisabled : ¬ s.stepEnabled = true := fun h => by
      rw [(stepEnabled_iff.1 h).2.2] at hwait
      cases hwait
    rw [step, hinputs]
    exact if_neg hdisabled
  case dispatch =>
    have hignored : handleInput (.dispatch b) s = .ok s := dispatchBin_ignored (.inr (.inr hwait))
    rw [inputEvent_of_alive halive, hignored, settle_ok]

/-! ## The fetch (R104) -/

section
variable {s : State} {t : Nat} {pc : Addr}

/-- With a current thread, no fault and no SYNC waiting the interpreter is enabled (R62). -/
theorem stepEnabled_of_cur (halive : s.Alive) (hwait : s.syncWait = false) (hcur : s.cur? = some t) :
    s.stepEnabled = true := by
  obtain ⟨a, rest, hact, _⟩ := cur?_eq_some.1 hcur
  exact stepEnabled_iff.2 ⟨halive, by rw [hact]; exact List.cons_ne_nil _ _, hwait⟩

theorem stepEvent_fetch_error {f : FaultCode} (halive : s.Alive) (hwait : s.syncWait = false)
    (hcur : s.cur? = some t) (hfetch : fetch (s.thread t).pc s = .error f) :
    stepEvent s = .next (faulted s f (some t) (some (s.thread t).pc)) := by
  simp only [stepEvent, stepEnabled_of_cur halive hwait hcur, if_true, hcur, hfetch, raiseFault_of_cur hcur]

theorem stepEvent_fetch_ok {i : Instr} (halive : s.Alive) (hwait : s.syncWait = false)
    (hcur : s.cur? = some t) (hfetch : fetch (s.thread t).pc s = .ok i) : stepEvent s = exec i s := by
  simp only [stepEvent, stepEnabled_of_cur halive hwait hcur, if_true, hcur, hfetch]

/-- No image, or a program counter outside the program section: nothing is fetched (R104). -/
def State.Unfetchable (s : State) (pc : Addr) : Prop :=
  s.imageValid = false ∨ pc.toNat < s.progStart.toNat ∨ s.externB.toNat ≤ pc.toNat

theorem fetch_outside (h : s.Unfetchable pc) : fetch pc s = .error .fetchOutOfCode := by
  obtain h | h | h := h
  · simp [fetch, h]
  · simp [fetch, h]
  · simp [fetch, h]

theorem not_unfetchable_iff : ¬ s.Unfetchable pc ↔
    s.imageValid = true ∧ s.progStart.toNat ≤ pc.toNat ∧ pc.toNat < s.externB.toNat := by
  simp [State.Unfetchable]

section
variable (h : ¬ s.Unfetchable pc)
include h

theorem fetch_unassigned (hop : lenOf (s.byteAt pc.toNat) = none) : fetch pc s = .error .illegalOpcode := by
  obtain ⟨himage, hlow, hhigh⟩ := not_unfetchable_iff.1 h
  simp [fetch, himage, Nat.not_lt.2 hlow, Nat.not_le.2 hhigh, hop]

theorem fetch_crossing {len : Nat} (hop : lenOf (s.byteAt pc.toNat) = some len)
    (hcross : s.externB.toNat < pc.toNat + len) : fetch pc s = .error .fetchOutOfCode := by
  obtain ⟨himage, hlow, hhigh⟩ := not_unfetchable_iff.1 h
  simp [fetch, himage, Nat.not_lt.2 hlow, Nat.not_le.2 hhigh, hop, hcross]

theorem fetch_whole {len : Nat} {i : Instr} {rest : List Byte} (hop : lenOf (s.byteAt pc.toNat) = some len)
    (hwhole : pc.toNat + len ≤ s.externB.toNat) (hdec : decode (s.readBytes pc.toNat len) = .ok (i, rest)) :
    fetch pc s = .ok i := by
  obtain ⟨himage, hlow, hhigh⟩ := not_unfetchable_iff.1 h
  simp [fetch, himage, Nat.not_lt.2 hlow, Nat.not_le.2 hhigh, hop, Nat.not_lt.2 hwhole, hdec]

end

/-- A longer read begins with the shorter one. -/
theorem take_readBytes (s : State) (a : Nat) {k m : Nat} (h : k ≤ m) :
    (s.readBytes a m).take k = s.readBytes a k := by
  obtain ⟨j, rfl⟩ := Nat.exists_eq_add_of_le h
  rw [readBytes_add, List.take_left' (readBytes_length s a k)]

/-- An instruction read from the front of bytes is read from its own bytes alone. -/
theorem decode_take {bytes rest : List Byte} {i : Instr} (h : decode bytes = .ok (i, rest)) :
    ∃ op, bytes.head? = some op ∧ (encode i).head? = some op ∧ (encode i).length ≤ bytes.length ∧
      decode (bytes.take (encode i).length) = .ok (i, []) := by
  cases bytes with
  | nil => cases h
  | cons op bs =>
    cases hrow : findRow op with
    | none =>
      simp only [decode, hrow] at h
      cases h
    | some r =>
      obtain ⟨hmem, rfl⟩ := findRow_eq_some hrow
      simp only [decode, hrow] at h
      split at h
      case isTrue => cases h
      case isFalse henough =>
        cases h
        obtain ⟨hhead, hlen⟩ := encode_build hmem (BitVec.ofNat 32 (leNat (bs.take (r.format.length - 1))))
        have hpos : r.format.length = r.format.length - 1 + 1 := by cases r.format <;> rfl
        have hbs : (bs.take (r.format.length - 1)).length = r.format.length - 1 := by
          rw [List.length_take]
          omega
        refine ⟨r.op, rfl, hhead, by rw [hlen, List.length_cons]; omega, ?_⟩
        rw [hlen, hpos, List.take_succ_cons]
        have hdec := decode_of_row (opd := bs.take (r.format.length - 1)) hrow hbs rfl []
        rwa [List.append_nil] at hdec

theorem fetch_decoded {i : Instr} {k : Nat} {rest : List Byte} (himage : s.imageValid = true)
    (hlow : s.progStart.toNat ≤ pc.toNat) (hdec : decode (s.readBytes pc.toNat k) = .ok (i, rest))
    (hwhole : pc.toNat + (encode i).length ≤ s.externB.toNat) : fetch pc s = .ok i := by
  obtain ⟨op, hhead, henc, hlen, htake⟩ := decode_take hdec
  rw [readBytes_length] at hlen
  rw [take_readBytes s _ hlen] at htake
  have hop : s.byteAt pc.toNat = op := by
    cases k with
    | zero => cases hhead
    | succ k => exact Option.some.inj hhead
  have hpos : 0 < (encode i).length := List.length_pos_iff.2 fun hnil => by
    rw [hnil] at henc
    cases henc
  have hinside := not_unfetchable_iff.2 ⟨himage, hlow, Nat.lt_of_lt_of_le (Nat.lt_add_of_pos_right hpos) hwhole⟩
  exact fetch_whole hinside (hop ▸ lenOf_head_encode henc) hwhole htake

end

/-- Settles O31: the fetch reads the instruction that stands at the program counter. -/
theorem stepRunsDecoded : Obligations.StepRunsDecoded := by
  intro s t k i rest halive hwait hcur himage hlow hdec hwhole
  refine ⟨fun hinputs => ?turn, fun es hinputs => ?listed⟩
  case turn =>
    rw [step, hinputs]
    exact stepEvent_fetch_ok halive hwait hcur (fetch_decoded himage hlow hdec hwhole)
  case listed =>
    rw [step, hinputs]
    exact stepEvent_fetch_ok (s := { s with inputs := es }) halive hwait hcur
      (fetch_decoded himage hlow hdec hwhole)

/-- Settles O32: the section, the opcode byte, the boundary, in this order. -/
theorem fetchFaults : Obligations.FetchFaults := by
  intro s t halive hwait hcur hinputs pc outside
  have hstep : step s = stepEvent s := by
    rw [step, hinputs]
  rw [hstep]
  refine ⟨fun hout => ?section_, fun hin hnone => ?opcode, fun hin i hhead hcross => ?boundary⟩
  case section_ => exact stepEvent_fetch_error halive hwait hcur (fetch_outside hout)
  case opcode => exact stepEvent_fetch_error halive hwait hcur (fetch_unassigned hin (lenOf_eq_none hnone))
  case boundary =>
    exact stepEvent_fetch_error halive hwait hcur (fetch_crossing hin (lenOf_head_encode hhead) hcross)

end Sys2Proof.Machine

/-! PROOF. Shifts (R186 to R191), slot addresses (R130), the LED and the faults of ECALL (R230 to R233), and calls
followed by their returns (R213, R214, R240). -/

namespace Sys2Proof.Machine

/-! ## Shifts (R161 e) -/

section
variable {n : Nat} (a b : BitVec n)

theorem aluShl_eq_shiftLeft : aluShl a b = a <<< b.toNat := by
  unfold aluShl
  split
  case isTrue hall => exact (BitVec.shiftLeft_eq_zero hall).symm
  case isFalse =>
    apply BitVec.eq_of_toNat_eq
    rw [BitVec.toNat_ofNat, BitVec.toNat_shiftLeft, Nat.shiftLeft_eq]

/-- With every bit shifted out only the sign is left. -/
theorem toInt_div_two_pow {k : Nat} (hk : n ≤ k) : a.toInt / 2 ^ k = if a.toInt < 0 then -1 else 0 := by
  have hpow : (2 : Int) ^ n ≤ 2 ^ k := pow_le_pow_right₀ (by decide) hk
  have hlow := BitVec.le_two_mul_toInt (x := a)
  have hhigh := BitVec.two_mul_toInt_lt (x := a)
  split
  case isTrue hneg => exact Int.ediv_eq_neg_one_of_neg_of_le hneg (by omega)
  case isFalse hpos => exact Int.ediv_eq_zero_of_lt (by omega) (by omega)

theorem aluShr_eq_sshiftRight : aluShr a b = a.sshiftRight b.toNat := by
  rw [BitVec.sshiftRight, Int.shiftRight_eq_div_pow]
  unfold aluShr
  split
  case isTrue hall =>
    have hdiv := toInt_div_two_pow a hall
    push_cast
    rw [hdiv]
    split
    · have hall : BitVec.ofNat n (2 ^ n - 1) = BitVec.allOnes n := BitVec.eq_of_toNat_eq (by simp)
      rw [hall]
      exact BitVec.neg_one_eq_allOnes.symm.trans (BitVec.ofInt_neg (w := n) (n := 1)).symm
    · rfl
  case isFalse => push_cast; rfl

end

/-- Settles O15: the rule for a total function, at the two shifts. -/
theorem shifts : Obligations.Shifts :=
  ⟨⟨replacesBy_of_binop rfl (fun _ => rfl) aluShl_eq_shiftLeft,
      replacesBy_of_binop rfl (fun _ => rfl) aluShl_eq_shiftLeft,
      replacesBy_of_binop rfl (fun _ => rfl) aluShl_eq_shiftLeft⟩,
    ⟨replacesBy_of_binop rfl (fun _ => rfl) aluShr_eq_sshiftRight,
      replacesBy_of_binop rfl (fun _ => rfl) aluShr_eq_sshiftRight,
      replacesBy_of_binop rfl (fun _ => rfl) aluShr_eq_sshiftRight⟩⟩

/-- Settles O2: narrowing an integer to 16 bits is taking it modulo 2^16. -/
theorem slotAddressWraps : Obligations.SlotAddressWraps := by
  intro s t off
  rw [State.slotEa, frameEa, BitVec.toNat_ofInt]
  exact Int.toNat_of_nonneg (Int.emod_nonneg _ (by decide))

/-! ## ECALL (R230 to R233) -/

section
variable {s : State} {t : Nat} {id : Word} {nat : Native}

theorem nativeOf_eq_none (hid : 4 ≤ id.toNat) : nativeOf id.toNat = none := by
  match hn : id.toNat, hid with
  | _ + 4, _ => rfl

/-- No native has this id (R230). -/
theorem ecall_illegal (hcur : s.cur? = some t) (hid : 4 ≤ id.toNat) : FaultsWith (.ecall id) s t .illegalNative := by
  refine faultsWith_of_error rfl hcur ?_
  simp only [nativeOf_eq_none hid]

/-- Too few bytes for the parameters (R230). -/
theorem ecall_underflow (hcur : s.cur? = some t) (hnat : nativeOf id.toNat = some nat)
    (hneed : (s.thread t).sp.toNat < (s.thread t).bottom.toNat + nat.needs) :
    FaultsWith (.ecall id) s t .stackUnderflow := by
  refine faultsWith_of_error rfl hcur ?_
  simp only [hnat, if_pos hneed]

/-- No room for the frame (R230). -/
theorem ecall_overflow (hcur : s.cur? = some t) (hnat : nativeOf id.toNat = some nat)
    (hneed : (s.thread t).bottom.toNat + nat.needs ≤ (s.thread t).sp.toNat)
    (hroom : (s.thread t).top.toNat < (s.thread t).sp.toNat + 4) : FaultsWith (.ecall id) s t .stackOverflow := by
  refine faultsWith_of_error rfl hcur ?_
  simp only [hnat, if_neg (Nat.not_lt.2 hneed), if_pos hroom]

end

/-- Settles O25: the id, then the parameters of its native, then the room for the frame. -/
theorem ecallFaults : Obligations.EcallFaults := by
  intro s t id hcur
  refine ⟨cons_leBytes_eq_slices 0x63 2 id, ecall_illegal hcur, fun need hneed => ?_⟩
  have hnat : ∃ nat, nativeOf id.toNat = some nat ∧ nat.needs = need := by
    simp only [List.mem_cons, Prod.mk.injEq, List.not_mem_nil, or_false] at hneed
    obtain ⟨rfl, rfl⟩ | ⟨rfl, rfl⟩ | ⟨rfl, rfl⟩ | ⟨rfl, rfl⟩ := hneed
    · exact ⟨.toggleLed, rfl, rfl⟩
    · exact ⟨.setLed, rfl, rfl⟩
    · exact ⟨.registerCallback, rfl, rfl⟩
    · exact ⟨.transmit, rfl, rfl⟩
  obtain ⟨nat, hnat, rfl⟩ := hnat
  exact ⟨ecall_underflow hcur hnat, ecall_overflow hcur hnat⟩

section
variable {s : State} {t : Nat} {id : Word} {nat : Native} {v : Led}

/-- A native that only drives the LED. -/
theorem ecall_drivesLed (hready : Ready s t) (hnat : nativeOf id.toNat = some nat)
    (hneed : (s.thread t).bottom.toNat + nat.needs ≤ (s.thread t).sp.toNat)
    (hroom : (s.thread t).sp.toNat + 4 ≤ (s.thread t).top.toNat)
    (hrun : runNative nat ((s.thread t).sp + 4) (s.entered t) = .ok (driveLed v (s.entered t))) :
    CompletesAs (.ecall id) s { s with led := v, outputs := s.outputs ++ [.led v] } t
      { s.thread t with pc := (s.thread t).pc + 3, sp := (s.thread t).sp - BitVec.ofNat 16 nat.drops }
      (s.thread t).sp.toNat (s.frameBytes t 3) := by
  have hframe := readBytes_entered_frame s t
  refine ecall_completes hready hnat hneed hroom hrun rfl rfl hframe ?bytes fun a ha => ?others
  case bytes => rwa [frameBytes_length]
  case others => exact byteAt_entered_outside (by rwa [frameBytes_length] at ha)

/-- Toggling answers the other of the two states (R232). -/
theorem nativeToggleLed_eq (hv : v ≠ s.led) : nativeToggleLed s = driveLed v s := by
  unfold nativeToggleLed
  cases hled : s.led <;> cases v
  case off.off => exact absurd hled.symm hv
  case on.on => exact absurd hled.symm hv
  all_goals rfl

/-- Set-LED reads the byte below its frame (R233). -/
theorem nativeSetLed_entered (hready : Ready s t) (hneed : (s.thread t).bottom.toNat + 1 ≤ (s.thread t).sp.toNat)
    (hroom : (s.thread t).sp.toNat + 4 ≤ (s.thread t).top.toNat) (hv : v = .on ↔ s.opB t 8 = 0) :
    nativeSetLed ((s.thread t).sp + 4) (s.entered t) = .ok (driveLed v (s.entered t)) := by
  obtain ⟨_, _, _, htop⟩ := hready
  have htopLt := (s.thread t).top.isLt
  have hcap : (s.thread t).sp.toNat + 4 ≤ (s.entered t).params.memCap := hroom.trans htop
  have hread : memRead 8 ((s.thread t).sp + 4 - 5) (s.entered t) = .ok (s.opB t 8) := by
    refine (memRead_native_fp_sub (k := 5) (by omega) hcap (by omega) (by omega)).trans ?_
    rw [valueAt_entered_below (by omega), State.opB, Nat.add_sub_add_right _ 4 1]
  have hled : (if (s.opB t 8).toNat = 0 then Led.on else Led.off) = v := by
    have hzero : (s.opB t 8).toNat = 0 ↔ s.opB t 8 = 0 := by rw [BitVec.toNat_eq]; rfl
    simp only [hzero, ← hv]
    cases v <;> rfl
  rw [nativeSetLed, hread, ok_bind, hled]

end

/-- Settles O22: the rule for a native that only drives the LED, at the two of them. -/
theorem nativeLed : Obligations.NativeLed := by
  intro s t v hready hroom
  refine ⟨fun hv => ?toggle, fun hneed hv => ?set⟩
  case toggle =>
    have hrun : nativeToggleLed (s.entered t) = driveLed v (s.entered t) := nativeToggleLed_eq hv
    have hdone := ecall_drivesLed (id := 0) (nat := .toggleLed) hready rfl hready.2.1 hroom (congrArg Except.ok hrun)
    have hdrops : (s.thread t).sp - BitVec.ofNat 16 Native.toggleLed.drops = (s.thread t).sp := BitVec.sub_zero _
    rwa [hdrops] at hdone
  case set =>
    exact ecall_drivesLed (id := 1) (nat := .setLed) hready rfl hneed hroom
      (nativeSetLed_entered hready hneed hroom hv)

/-! ## Calls and their returns -/

section
variable {s s1 : State} {t : Nat} {r : Thread} {lo : Nat} {bytes : List Byte}

theorem Moves.thread_eq (h : Moves s s1 t r lo bytes) (hl : t < s.threads.length) : s1.thread t = r := by
  rw [State.thread, h.1]
  exact thread_setThread_same s t r hl

theorem Moves.length_eq (h : Moves s s1 t r lo bytes) : s1.threads.length = s.threads.length := by
  rw [h.1, List.length_set]

/-- Two moves of one record: the later one stands. -/
theorem Moves.threads_trans {s2 : State} {r' : Thread} {lo' : Nat} {bytes' : List Byte}
    (h : Moves s s1 t r lo bytes) (h' : Moves s1 s2 t r' lo' bytes') : s2.threads = s.threads.set t r' := by
  rw [h'.1, h.1, List.set_set]

end

/-- Settles O21: the frame that CALL pushes is the frame that RET reads. -/
theorem callThenReturn : Obligations.CallThenReturn := by
  intro s t addr hready hfp hroom
  obtain ⟨s1, hcall, hs1, hmoves1⟩ := ((Control.call addr).2 s t).2 hready hroom
  obtain ⟨hcur, hbot, hsp, htop⟩ := hready
  have hl := cur?_lt hcur
  have hth := hmoves1.thread_eq hl
  have hcur1 : s1.cur? = some t := by
    obtain ⟨a, rest, hact, ha, _⟩ := cur?_eq_some.1 hcur
    exact cur?_eq_some.2 ⟨a, rest, by rw [hs1]; exact hact, ha, hmoves1.length_eq ▸ hl⟩
  have hnewFp : ((s.thread t).sp + 4).toNat = (s.thread t).sp.toNat + 4 :=
    toNat_add_k (k := 4) (by have := (s.thread t).top.isLt; omega)
  have hbytes := hmoves1.2.1
  rw [frameBytes_length] at hbytes
  obtain ⟨hret, hsaved⟩ := valueAt_of_frame hbytes
  have hreturn := ((Control.return_ 0).2 s1 t hcur1 (by rw [hth, hs1]; exact htop)).2.1
  have hnone : (0 : Word).toNat = 0 := rfl
  simp only [hth, hnewFp, hnone, Nat.add_sub_cancel,
    show (s.thread t).sp.toNat + 4 - 2 = (s.thread t).sp.toNat + 2 by omega, hret, hsaved] at hreturn
  obtain ⟨s2, hexec, hs2, hmoves2⟩ := (hreturn ⟨by omega, by omega⟩ hfp).2 (by omega)
  refine ⟨s1, s2, hcall, hexec, ?_, ?_⟩
  · have hsp : (s.thread t).sp + 4 - 4 - 0 = (s.thread t).sp := by simp
    rw [hmoves1.threads_trans hmoves2, hsp]
  · rw [hs2, hs1]

/-- Settles O28: the sentinel that SYNC pushes makes RET end its activation. -/
theorem syncThenReturn : Obligations.SyncThenReturn := by
  intro s t b0 bs hready halive hbot4 hbin hdepth hwait
  obtain ⟨s1, hsync, hs1, hmoves1⟩ := (((Calls.syncCall.2 s t hready).2 hbot4).2 b0 bs hbin).2 hdepth
  obtain ⟨hcur, hbot, hsp, htop⟩ := hready
  have hl := cur?_lt hcur
  have henter : inputEvent .syncEnter s1 = { s1 with syncWait := false } := by
    have halive1 : s1.Alive := by rw [hs1]; exact halive
    have hwait1 : s1.syncWait = true := by rw [hs1]
    exact (syncWindow s1 halive1).1 hwait1 |>.1
  have hth : ({ s1 with syncWait := false } : State).thread t = _ := hmoves1.thread_eq hl
  have hact : ({ s1 with syncWait := false } : State).actStack =
      { kind := .sync, thread := t, savedFp := (s.thread t).fp, obj := s.opB t 16 } :: s.actStack := by rw [hs1]
  have hcur1 : ({ s1 with syncWait := false } : State).cur? = some t :=
    cur?_eq_some.2 ⟨_, _, hact, rfl, hmoves1.length_eq ▸ hl⟩
  have hread : s1.readBytes ((s.thread t).sp.toNat - 4) (2 + 2) = slices 2 ((s.thread t).pc + 1) ++ [0, 0] := by
    simpa using hmoves1.2.1
  rw [readBytes_add] at hread
  obtain ⟨hretBytes, hsavedBytes⟩ := List.append_inj hread (by simp)
  have hret : ({ s1 with syncWait := false } : State).valueAt 16 ((s.thread t).sp.toNat - 4) = (s.thread t).pc + 1 :=
    valueAt_of_readBytes (s := s1) rfl hretBytes
  have hsaved : ({ s1 with syncWait := false } : State).valueAt 16 ((s.thread t).sp.toNat - 2) = 0 := by
    rw [show (s.thread t).sp.toNat - 2 = (s.thread t).sp.toNat - 4 + 2 by omega]
    exact valueAt_of_readBytes (s := s1) rfl hsavedBytes
  have hreturn := ((Control.return_ 0).2 { s1 with syncWait := false } t hcur1 (by
    rw [hth]
    show (s.thread t).top.toNat ≤ s1.params.memCap
    rw [hs1]
    exact htop)).2.2
  simp only [hth, hret, hsaved, BitVec.ofNat_eq_ofNat, BitVec.toNat_zero] at hreturn
  obtain ⟨s2, hexec, hs2, hmoves2⟩ := (hreturn ⟨by omega, hsp⟩ trivial _ _ hact).2.1 rfl (by omega)
  refine ⟨s1, s2, hsync, henter ▸ hexec, ?_, ?_, ?_, ?_, ?_⟩
  · have hthreads := Moves.threads_trans hmoves1 (s1 := s1) hmoves2
    rw [hthreads, BitVec.sub_zero]
    rfl
  all_goals rw [hs2]
  · rw [hs1]
  · rw [hs1]
    exact List.append_assoc _ _ _

end Sys2Proof.Machine

/-! PROOF. The codec (R261 to R263), the receiver's transitions (R264, R265, R268) and the reset values (R60). -/

namespace Sys2Proof.Machine

/-! ## The codec (R261 to R263) -/

section
variable {b : Byte}

theorem escapeByte_special (h : b = 0x7E ∨ b = 0x7D) : escapeByte b = [0x7D, b ^^^ flipMask] := if_pos h

theorem escapeByte_plain (h : ¬ (b = 0x7E ∨ b = 0x7D)) : escapeByte b = [b] := if_neg h

/-- One encoded byte is decoded before the rest (R262). -/
theorem wireDecode_escapeByte (b : Byte) (rest : List Byte) :
    wireDecode false (escapeByte b ++ rest) = (b :: (wireDecode false rest).1, (wireDecode false rest).2) := by
  by_cases h : b = 0x7E ∨ b = 0x7D
  case pos =>
    rw [escapeByte_special h]
    show ((b ^^^ flipMask ^^^ flipMask) :: _, _) = _
    rw [flip_flip]
    rfl
  case neg =>
    rw [escapeByte_plain h]
    exact if_neg fun hesc => h (.inr hesc)

theorem delim_notMem_escapeByte (b : Byte) : (0x7E : Byte) ∉ escapeByte b := by
  by_cases h : b = 0x7E ∨ b = 0x7D
  case pos =>
    rw [escapeByte_special h]
    obtain rfl | rfl := h <;> decide
  case neg =>
    rw [escapeByte_plain h, List.mem_singleton]
    exact fun hb => h (.inl hb.symm)

theorem length_escapeByte (b : Byte) : (escapeByte b).length = if b = 0x7E ∨ b = 0x7D then 2 else 1 := by
  unfold escapeByte
  exact apply_ite List.length _ _ _

end

theorem wireDecode_wireEncode (x : List Byte) : wireDecode false (wireEncode x) = (x, false) := by
  induction x with
  | nil => rfl
  | cons b x ih => rw [wireEncode, wireDecode_escapeByte, ih]

theorem delim_notMem_wireEncode (x : List Byte) : (0x7E : Byte) ∉ wireEncode x := by
  induction x with
  | nil => exact List.not_mem_nil
  | cons b x ih => exact fun h => (List.mem_append.1 h).elim (delim_notMem_escapeByte b) ih

theorem length_wireEncode (x : List Byte) :
    (wireEncode x).length = x.length + (x.filter (fun b => b = 0x7E ∨ b = 0x7D)).length := by
  induction x with
  | nil => rfl
  | cons b x ih =>
    rw [wireEncode, List.length_append, length_escapeByte, ih, List.filter_cons]
    split
    case isTrue h => simp only [h, decide_true, if_true, List.length_cons]; omega
    case isFalse h => simp only [h, decide_false, Bool.false_eq_true, if_false, List.length_cons]; omega

/-- Settles O38: by induction on the sequence, byte by byte; an escape octet alone is no encoding. -/
theorem codecRoundTrip : Obligations.CodecRoundTrip :=
  ⟨wireDecode_wireEncode, fun x => ⟨delim_notMem_wireEncode x, length_wireEncode x⟩, [0x7D], by decide⟩

/-! ## One received byte (R264) -/

section
variable {s : State} {b d : Byte}

theorem rxByte_escape (hesc : s.escPending = false) : rxByte 0x7D s = .ok { s with escPending := true } :=
  (if_neg (by rw [hesc]; decide)).trans (if_pos rfl)

theorem rxByte_delim (hesc : s.escPending = false) : rxByte 0x7E s = rxDelim s :=
  (if_neg (by rw [hesc]; decide)).trans rfl

theorem rxByte_escaped (hesc : s.escPending = true) :
    rxByte b s = .ok (rxData (b ^^^ flipMask) { s with escPending := false }) := if_pos hesc

theorem rxByte_plain (hesc : s.escPending = false) (h7d : b ≠ 0x7D) (h7e : b ≠ 0x7E) :
    rxByte b s = .ok (rxData b { s with escPending := false }) := by
  have hsame : { s with escPending := false } = s := by rw [← hesc]
  rw [hsame]
  exact (if_neg (by rw [hesc]; decide)).trans ((if_neg h7d).trans (if_neg h7e))

theorem rxData_idle (hstate : s.fstate = .idle) : rxData d s = s := by
  rw [rxData, hstate]

theorem rxData_room (hstate : s.fstate = .inFrame) (hroom : s.flen < s.params.frameCap) :
    rxData d s = { s with fbuf := Memory.put s.fbuf s.flen d, flen := s.flen + 1 } := by
  rw [rxData, hstate]
  exact if_pos hroom

theorem rxData_full (hstate : s.fstate = .inFrame) (hfull : s.params.frameCap ≤ s.flen) :
    rxData d s = { s with fovf := true } := by
  rw [rxData, hstate]
  exact if_neg (Nat.not_lt.2 hfull)

theorem rxDelim_opens (hstate : s.fstate = .idle) :
    rxDelim s = .ok { s with fstate := .inFrame, flen := 0, fovf := false } := by
  rw [rxDelim, hstate]

theorem rxDelim_discards (hstate : s.fstate = .inFrame) (hdrop : s.flen = 0 ∨ s.fovf = true) :
    rxDelim s = .ok { s with fstate := .idle, flen := 0, fovf := false } := by
  rw [rxDelim, hstate]
  obtain hlen | hovf := hdrop
  · simp only [if_pos hlen]
    rfl
  · simp only [hovf, if_true, ite_self]
    rfl

theorem rxDelim_delivers (hstate : s.fstate = .inFrame) (hlen : 0 < s.flen) (hovf : s.fovf = false) :
    rxDelim s =
      frameComplete s.frame { s with fstate := .idle } >>= fun q => .ok { q with flen := 0, fovf := false } := by
  rw [rxDelim, hstate]
  simp only [if_neg hlen.ne', hovf, Bool.false_eq_true, if_false]



theorem inputEvent_rxByte_ok {q : State} (halive : s.Alive) (h : rxByte b s = .ok q) :
    inputEvent (.rxByte b) s = q := by
  rw [inputEvent_of_alive halive, handleInput, h, settle_ok]

theorem inputEvent_rxByte_error {f : FaultCode} (halive : s.Alive) (h : rxByte b s = .error f) :
    inputEvent (.rxByte b) s = faultedNow s f := by
  rw [inputEvent_of_alive halive, handleInput, h, settle_error, raiseFault_eq_faultedNow]

/-- What the delimiter behind a frame makes of what the frame does (R264). -/
theorem rxByte_closes (hesc : s.escPending = false) (hstate : s.fstate = .inFrame) (hlen : 0 < s.flen)
    (hovf : s.fovf = false) :
    rxByte 0x7E s =
      frameComplete s.frame { s with fstate := .idle } >>= fun q => .ok { q with flen := 0, fovf := false } :=
  (rxByte_delim hesc).trans (rxDelim_delivers hstate hlen hovf)

end

/-- The frame so far, one byte longer (R264). -/
theorem frame_put (s : State) (d : Byte) :
    Memory.bytes s.resets .fbuf (Memory.put s.fbuf s.flen d) 0 (s.flen + 1) = s.frame ++ [d] := by
  have hbefore : Memory.bytes s.resets .fbuf (Memory.put s.fbuf s.flen d) 0 s.flen = s.frame :=
    Memory.bytes_congr _ _ _ _ _ _ fun a _ ha =>
      Memory.byteOr_congr _ _ _ _ _ (Memory.get?_put_other _ _ _ _ (by omega))
  have hlast : Memory.bytes s.resets .fbuf (Memory.put s.fbuf s.flen d) (0 + s.flen) 1 = [d] := by
    rw [Nat.zero_add]
    exact congrArg (fun b => [b]) (Memory.byteOr_put_same _ _ _ _ _)
  rw [Memory.bytes_add, hbefore, hlast]

/-- Settles O37: each kind of byte, by its rule in both states of the receiver. -/
theorem receiverTransitions : Obligations.ReceiverTransitions := by
  intro s b
  refine ⟨fun hfault => inputEvent_of_faulted hfault (by simp), fun halive => ⟨?escape, fun d hd => ?data, ?delim⟩⟩
  case escape =>
    rintro hesc rfl
    exact inputEvent_rxByte_ok halive (rxByte_escape hesc)
  case data =>
    have hrx : rxByte b s = .ok (rxData d { s with escPending := false }) := by
      obtain ⟨hesc, rfl⟩ | ⟨hesc, h7d, h7e, rfl⟩ := hd
      · exact rxByte_escaped hesc
      · exact rxByte_plain hesc h7d h7e
    rw [inputEvent_rxByte_ok halive hrx]
    exact ⟨fun hstate => rxData_idle hstate, fun hstate hroom => ⟨_, rxData_room hstate hroom, frame_put s d⟩,
      fun hstate hfull => rxData_full hstate hfull⟩
  case delim =>
    rintro hesc rfl
    refine ⟨fun hstate => ?opens, fun hstate hdrop => ?discards, fun hstate hlen hovf => ?delivers⟩
    case opens => exact inputEvent_rxByte_ok halive ((rxByte_delim hesc).trans (rxDelim_opens hstate))
    case discards => exact inputEvent_rxByte_ok halive ((rxByte_delim hesc).trans (rxDelim_discards hstate hdrop))
    case delivers =>
      have hrx := rxByte_closes hesc hstate hlen hovf
      exact ⟨fun q hq => inputEvent_rxByte_ok halive (by rw [hrx, hq, ok_bind]),
        fun f hf => inputEvent_rxByte_error halive (by rw [hrx, hf, error_bind])⟩

/-! ## Reset (R60, R400, R401) -/

/-- The table of R60 holds whatever the number of resets, the events and the output. -/
theorem afterReset_boot (p : Params) (n : Nat) (es : List Event) (os : List Output) :
    AfterReset { State.boot p with resets := n, inputs := es, outputs := os } where
  threads := rfl
  threadFree := rfl
  bins := ⟨List.length_replicate, fun r hr => by
    obtain rfl : r = Bin.reset := List.eq_of_mem_replicate hr
    exact ⟨rfl, rfl, rfl, rfl⟩⟩
  binFree := rfl
  actStack := rfl
  syncWait := rfl
  image := ⟨rfl, rfl, rfl, rfl⟩
  callback := ⟨rfl, rfl, rfl⟩
  session := ⟨rfl, rfl⟩
  receiver := ⟨rfl, rfl, rfl, rfl⟩
  transmitter := ⟨rfl, rfl, rfl⟩
  fault := rfl

theorem inputEvent_rst (s : State) : inputEvent .rst s = restart s := if_neg fun h => h.2 rfl

/-- A frame whose first byte is 04 is a reset frame (R270, R272). -/
theorem frameComplete_reset (x : List Byte) (s : State) : frameComplete (0x04 :: x) s = .ok (resetFrame s) := rfl

/-- Settles O36: each of the three leaves the boot state but for the model's own fields. -/
theorem resetState : Obligations.ResetState := by
  refine ⟨afterReset_boot Params.reference 0 [] [], fun s => ?pin,
    fun s x halive hstate hesc hovf hlen hframe => ?frame⟩
  case pin =>
    rw [inputEvent_rst]
    exact ⟨afterReset_boot _ _ _ _, rfl⟩
  case frame =>
    have hrx := rxByte_closes hesc hstate hlen hovf
    rw [hframe, frameComplete_reset, ok_bind] at hrx
    rw [inputEvent_rxByte_ok halive hrx]
    exact ⟨afterReset_boot _ _ _ _, rfl⟩

/-! ## Receiving an encoded sequence (R265, R268) -/

/-- Data bytes one after another (R264). -/
def rxAll (x : List Byte) (s : State) : State := x.foldl (fun q d => rxData d q) s

@[simp] theorem rxAll_cons (d : Byte) (x : List Byte) (s : State) : rxAll (d :: x) s = rxAll x (rxData d s) := rfl

@[simp] theorem rxData_escPending (d : Byte) (s : State) : (rxData d s).escPending = s.escPending := by
  unfold rxData
  split
  · rfl
  · split <;> rfl

section
variable {s : State} {x : List Byte}

/-- The encoding of one byte is received as that data byte. -/
theorem receive_escapeByte (b : Byte) (rest : List Byte) (halive : s.Alive) (hesc : s.escPending = false) :
    receive (escapeByte b ++ rest) s = receive rest (rxData b s) := by
  have hsame : { s with escPending := false } = s := by rw [← hesc]
  by_cases h : b = 0x7E ∨ b = 0x7D
  case pos =>
    rw [escapeByte_special h]
    show receive rest (inputEvent (.rxByte (b ^^^ flipMask)) (inputEvent (.rxByte 0x7D) s)) = _
    rw [inputEvent_rxByte_ok halive (rxByte_escape hesc),
      inputEvent_rxByte_ok (s := { s with escPending := true }) halive (rxByte_escaped rfl), flip_flip]
    exact congrArg (fun q => receive rest (rxData b q)) hsame
  case neg =>
    obtain ⟨h7e, h7d⟩ := not_or.1 h
    rw [escapeByte_plain h]
    show receive rest (inputEvent (.rxByte b) s) = _
    rw [inputEvent_rxByte_ok halive (rxByte_plain hesc h7d h7e), hsame]

/-- An encoded sequence is received as its data bytes. -/
theorem receive_wireEncode (rest : List Byte) (halive : s.Alive) (hesc : s.escPending = false) :
    receive (wireEncode x ++ rest) s = receive rest (rxAll x s) := by
  induction x generalizing s with
  | nil => rfl
  | cons b x ih =>
    rw [wireEncode, List.append_assoc, receive_escapeByte b _ halive hesc, rxAll_cons]
    exact ih ((congrArg FaultReg.valid (rxData_fault b s)).trans halive) ((rxData_escPending b s).trans hesc)

/-- Data bytes with room for them are written one after another (R264). -/
theorem rxAll_room (hstate : s.fstate = .inFrame) (hroom : s.flen + x.length ≤ s.params.frameCap) :
    rxAll x s = { s with fbuf := Memory.putAll s.fbuf s.flen x, flen := s.flen + x.length } := by
  induction x generalizing s with
  | nil => rfl
  | cons d x ih =>
    rw [List.length_cons] at hroom
    rw [rxAll_cons, rxData_room hstate (by omega)]
    have hroom' : s.flen + 1 + x.length ≤ s.params.frameCap := by omega
    refine (ih (s := { s with fbuf := _, flen := s.flen + 1 }) hstate hroom').trans ?_
    rw [List.length_cons, Nat.add_comm x.length 1, ← Nat.add_assoc]
    rfl

/-- Data bytes without room for all of them set the overflow mark and reach nothing but the receiver (R264). -/
theorem rxAll_overflows (hstate : s.fstate = .inFrame) (hlen : s.flen ≤ s.params.frameCap)
    (hlong : s.fovf = true ∨ s.params.frameCap < s.flen + x.length) :
    ∃ buf n, rxAll x s = { s with fbuf := buf, flen := n, fovf := true } := by
  induction x generalizing s with
  | nil =>
    have hovf : s.fovf = true := hlong.resolve_right (Nat.not_lt.2 hlen)
    exact ⟨s.fbuf, s.flen, by rw [← hovf]; rfl⟩
  | cons d x ih =>
    rw [rxAll_cons]
    rw [List.length_cons] at hlong
    by_cases hroom : s.flen < s.params.frameCap
    case pos =>
      rw [rxData_room hstate hroom]
      exact ih (s := { s with fbuf := _, flen := s.flen + 1 }) hstate hroom
        (hlong.imp_right fun h => by show s.params.frameCap < s.flen + 1 + x.length; omega)
    case neg =>
      rw [rxData_full hstate (Nat.not_lt.1 hroom)]
      exact ih (s := { s with fovf := true }) hstate hlen (.inl rfl)

/-- An opening delimiter before an encoded sequence: its data bytes into an empty frame. -/
theorem receive_delim_wireEncode (rest : List Byte) (halive : s.Alive) (hstate : s.fstate = .idle)
    (hesc : s.escPending = false) :
    receive (0x7E :: (wireEncode x ++ rest)) s =
      receive rest (rxAll x { s with fstate := .inFrame, flen := 0, fovf := false }) := by
  have hopen := inputEvent_rxByte_ok halive ((rxByte_delim hesc).trans (rxDelim_opens hstate))
  rw [receive, hopen]
  exact receive_wireEncode rest halive hesc

end

/-- Settles O39: the data bytes fit, so they stand in the buffer as they came. -/
theorem receptionInvertsTransmission : Obligations.ReceptionInvertsTransmission := by
  intro s x halive hstate hesc hfits
  have hall : rxAll x { s with fstate := .inFrame, flen := 0, fovf := false } =
      { s with fstate := .inFrame, fovf := false, fbuf := Memory.putAll s.fbuf 0 x, flen := x.length } := by
    refine (rxAll_room rfl (by simpa using hfits)).trans ?_
    rw [Nat.zero_add]
  have hreceived := (receive_delim_wireEncode [] halive hstate hesc).trans (congrArg (receive []) hall)
  rw [List.append_nil] at hreceived
  intro s'
  have hs' : s' = _ := hreceived
  rw [hs']
  exact ⟨Memory.bytes_putAll _ _ _ _ _, rfl⟩

/-- Settles O40: the overflow mark is set, so the closing delimiter discards the frame. -/
theorem oversizeFrameIsDropped : Obligations.OversizeFrameIsDropped := by
  intro s x halive hstate hesc hlong
  obtain ⟨buf, n, hall⟩ := rxAll_overflows (s := { s with fstate := .inFrame, flen := 0, fovf := false }) (x := x) rfl
    (Nat.zero_le _) (.inr (by simpa using hlong))
  have hreceived := (receive_delim_wireEncode [0x7E] halive hstate hesc).trans (congrArg (receive [0x7E]) hall)
  have hclose : rxByte 0x7E { s with fstate := .inFrame, fbuf := buf, flen := n, fovf := true } =
      .ok { s with fstate := .idle, fbuf := buf, flen := 0, fovf := false } :=
    (rxByte_delim (s := { s with fstate := .inFrame, fbuf := buf, flen := n, fovf := true }) hesc).trans
      (rxDelim_discards rfl (.inr rfl))
  intro s'
  have hs' : s' = { s with fstate := .idle, fbuf := buf, flen := 0, fovf := false } :=
    hreceived.trans (inputEvent_rxByte_ok halive hclose)
  rw [hs', ← hstate]

end Sys2Proof.Machine

/-! PROOF. Which segment frames are dropped (R290 to R292), and what moves the session (R299). -/

namespace Sys2Proof.Machine

/-! ## The checksum test (R290 to R292) -/

section
variable {s : State} {h ck : Byte} {x y : List Byte}

/-- A segment frame that fails the test changes nothing, whichever its header (R291). -/
theorem frameComplete_of_not_segmentOk (hh : h = 0x01 ∨ h = 0x02) (hbad : ¬ segmentOk (h :: x) = true) :
    frameComplete (h :: x) s = .ok s := by
  obtain rfl | rfl := hh
  · exact if_neg hbad
  · exact if_neg hbad

/-- The test of a frame whose last byte is written apart. -/
theorem segmentOk_cons_concat :
    segmentOk (h :: (y ++ [ck])) = true ↔ 2 < (y ++ [ck]).length ∧ checksum y = ck := by
  have hsum : frameSum (h :: (y ++ [ck])) = checksum y := by
    have hsummed : ((h :: (y ++ [ck])).drop 1).dropLast = y := List.dropLast_concat
    rw [frameSum, hsummed, ofNat_sum_toNat_eq_checksum]
  have hck : frameCk (h :: (y ++ [ck])) = ck := by simp [frameCk]
  have hlen : 4 ≤ (h :: (y ++ [ck])).length ↔ 2 < (y ++ [ck]).length := Nat.succ_le_succ_iff
  rw [segmentOk, Bool.and_eq_true, decide_eq_true_eq, decide_eq_true_eq, hsum, hck, hlen]

theorem checksum_cons (b : Byte) (bs : List Byte) : checksum (b :: bs) = b + checksum bs := by
  rw [← ofNat_sum_toNat_eq_checksum, ← ofNat_sum_toNat_eq_checksum, List.map_cons, List.sum_cons, BitVec.ofNat_add,
    BitVec.ofNat_toNat, BitVec.setWidth_eq]

/-- One byte replaced moves the sum by the difference. -/
theorem checksum_set (y : List Byte) (j : Nat) (hj : j < y.length) (v : Byte) :
    checksum (y.set j v) + y[j] = checksum y + v := by
  induction y generalizing j with
  | nil => exact absurd hj (Nat.not_lt_zero j)
  | cons b y ih =>
    cases j with
    | zero =>
      rw [List.set_cons_zero, List.getElem_cons_zero, checksum_cons, checksum_cons]
      ac_rfl
    | succ j =>
      rw [List.set_cons_succ, List.getElem_cons_succ, checksum_cons, checksum_cons, BitVec.add_assoc,
        ih j (Nat.lt_of_succ_lt_succ hj), BitVec.add_assoc]

/-- The test finds every change of a single byte. -/
theorem not_segmentOk_set (hok : segmentOk (h :: x) = true) {j : Nat} (hj : j < x.length) {v : Byte} (hv : v ≠ x[j]) :
    ¬ segmentOk (h :: x.set j v) = true := by
  obtain ⟨y, ck, rfl⟩ : ∃ y ck, x = y ++ [ck] := by
    have hne : x ≠ [] := List.ne_nil_of_length_pos (Nat.zero_lt_of_lt hj)
    exact ⟨x.dropLast, x.getLast hne, (List.dropLast_concat_getLast hne).symm⟩
  obtain ⟨_, hck⟩ := segmentOk_cons_concat.1 hok
  by_cases hlast : j < y.length
  case pos =>
    rw [List.set_append_left _ _ hlast, segmentOk_cons_concat, hck.symm]
    rw [List.getElem_append_left hlast] at hv
    rintro ⟨_, hsame⟩
    have hset := checksum_set y j hlast v
    rw [hsame] at hset
    exact hv (BitVec.add_right_inj _ |>.1 hset).symm
  case neg =>
    obtain rfl : j = y.length := by
      rw [List.length_append, List.length_singleton] at hj
      omega
    rw [List.set_append_right _ _ (Nat.not_lt.1 hlast), Nat.sub_self, List.set_cons_zero, segmentOk_cons_concat, hck]
    rw [List.getElem_append_right (Nat.not_lt.1 hlast)] at hv
    simp only [Nat.sub_self, List.getElem_cons_zero] at hv
    exact fun hnew => hv hnew.2.symm

end

/-- Settles O45: too short or a wrong sum, the test fails. -/
theorem badSegmentIsDropped : Obligations.BadSegmentIsDropped := by
  refine fun s h hh => ⟨fun x hshort => ?short, fun field data ck hck => ?wrong⟩
  case short =>
    refine frameComplete_of_not_segmentOk hh fun hok => ?_
    simp only [segmentOk, Bool.and_eq_true, decide_eq_true_eq, List.length_cons] at hok
    omega
  case wrong => exact frameComplete_of_not_segmentOk hh fun hok => hck ((segmentOk_segmentFrame _ _ _ _).1 hok).symm

/-- Settles O46: a flipped bit changes one byte, and the test finds it. -/
theorem checksumDetectsBitFlips : Obligations.ChecksumDetectsBitFlips := by
  intro s h x j k hj hh hok hk
  refine frameComplete_of_not_segmentOk hh (not_segmentOk_set hok hj fun hsame => ?_)
  have hbit := congrArg (fun b => BitVec.getLsbD b k) hsame
  simp [hk] at hbit

/-! ## The session (R299) -/

/-- The session stands as it was. -/
def SameSession (s q : State) : Prop := q.confirmedReceived = s.confirmedReceived ∧ q.totalLen = s.totalLen

/-- What a closed frame can do to the session: nothing; a continuation segment confirms more; an accepted init
segment begins a new transfer; a reset frame ends it. -/
def MovesSession (s : State) (f : List Byte) (q : State) : Prop :=
  SameSession s q ∨
  (f.head? = some 0x02 ∧ s.confirmedReceived.toNat ≤ q.confirmedReceived.toNat ∧ q.totalLen = s.totalLen) ∨
  AcceptedInit s f ∨ f.head? = some 0x04

section
variable {s q : State} {f : List Byte}

theorem FrameEffect.movesSession (h : FrameEffect s f q) : MovesSession s f q := by
  cases h with
  | dropped => exact .inl ⟨rfl, rfl⟩
  | acked x =>
    rw [sendAck_frame]
    exact .inl ⟨rfl, rfl⟩
  | begun hinit => exact .inr (.inr (.inl hinit))
  | @continued x data off _ hnear hnew hfits h =>
    obtain ⟨_, htotal, hconfirmed⟩ := acceptData_session h
    have htotalLt := s.totalLen.isLt
    refine .inr (.inl ⟨rfl, ?_, htotal⟩)
    rw [hconfirmed, BitVec.toNat_ofNat, Nat.mod_eq_of_lt (by omega)]
    exact hnew.le
  | reset x => exact .inr (.inr (.inr rfl))
  | delivered _ _ h =>
    rw [issueAsync_frame h]
    exact .inl ⟨rfl, rfl⟩

theorem sameSession_rxData (d : Byte) (s : State) : SameSession s (rxData d s) := by
  unfold rxData
  split
  · exact ⟨rfl, rfl⟩
  · split <;> exact ⟨rfl, rfl⟩

/-- A received byte leaves the session, or closes a frame (R264). -/
theorem inputEvent_rxByte_session (b : Byte) (s : State) :
    SameSession s (inputEvent (.rxByte b) s) ∨
      (ClosesFrame s b s.frame ∧ MovesSession s s.frame (inputEvent (.rxByte b) s)) := by
  cases hfault : s.fault.valid with
  | true =>
    rw [inputEvent_of_faulted hfault (by simp)]
    exact .inl ⟨rfl, rfl⟩
  | false =>
    obtain hsame | ⟨_, _, hraise⟩ | hok := inputEvent_cases (.rxByte b) s
    · rw [hsame]
      exact .inl ⟨rfl, rfl⟩
    · rw [hraise]
      exact .inl ⟨rfl, rfl⟩
    · obtain hq | ⟨d, hq⟩ | ⟨_, hq⟩ | ⟨hesc, hb, hstate, hovf, hlen, q', hframe, hq⟩ := rxByte_eq_ok hok
      · rw [hq]
        exact .inl ⟨rfl, rfl⟩
      · rw [hq]
        exact .inl (sameSession_rxData d { s with escPending := false })
      · rw [hq]
        exact .inl ⟨rfl, rfl⟩
      · rw [hq]
        exact .inr ⟨⟨hfault, hesc, hb, hstate, hovf, hlen, rfl⟩, hframe.movesSession⟩

/-- Any other event but `Rst` leaves the session. -/
theorem inputEvent_session {e : Input} (hrst : e ≠ .rst) (hrx : ∀ b, e ≠ .rxByte b) (s : State) :
    SameSession s (inputEvent e s) := by
  obtain hsame | ⟨_, _, hraise⟩ | hok := inputEvent_cases e s
  · rw [hsame]
    exact ⟨rfl, rfl⟩
  · rw [hraise]
    exact ⟨rfl, rfl⟩
  · exact (handleInput_session hrst hrx hok).2

theorem exec_session {i : Instr} (h : exec i s = .next q) : SameSession s q := by
  rw [exec_frame h]
  exact ⟨rfl, rfl⟩

theorem stepEvent_session (h : stepEvent s = .next q) : SameSession s q := by
  obtain rfl | ⟨f, rfl⟩ | ⟨i, _, _, hexec⟩ := stepEvent_eq_next h
  · exact ⟨rfl, rfl⟩
  · exact ⟨rfl, rfl⟩
  · exact exec_session hexec

/-- A session that stands has neither lost a byte nor a new length. -/
theorem SameSession.not_moved (h : SameSession s q) :
    ¬ (q.confirmedReceived.toNat < s.confirmedReceived.toNat ∨ q.totalLen ≠ s.totalLen) := by
  rw [h.1]
  exact fun hmoved => hmoved.elim (Nat.lt_irrefl _) fun htotal => htotal h.2

/-- An init segment has the init header (R290). -/
theorem AcceptedInit.head?_eq (h : AcceptedInit s f) : f.head? = some 0x01 := by
  obtain ⟨_, _, rfl, _⟩ := h
  rfl

/-- A closed frame is not empty. -/
theorem exists_cons_of_closesFrame {b : Byte} (h : ClosesFrame s b f) : ∃ h0 x, f = h0 :: x := by
  obtain ⟨_, _, _, _, _, hlen, rfl⟩ := h
  refine List.exists_cons_of_length_pos ?_
  rwa [State.frame, Memory.bytes_length]

/-- A frame that lowers the confirmed length or changes the total is a reset frame or an accepted init segment. -/
theorem MovesSession.reset_or_init (h : MovesSession s f q)
    (hmoved : q.confirmedReceived.toNat < s.confirmedReceived.toNat ∨ q.totalLen ≠ s.totalLen) :
    f.head? = some 0x04 ∨ AcceptedInit s f := by
  obtain hsame | ⟨_, hmore, htotal⟩ | hinit | hreset := h
  · exact absurd hmoved hsame.not_moved
  · exact absurd hmoved (not_or.2 ⟨Nat.not_lt.2 hmore, not_not.2 htotal⟩)
  · exact .inr hinit
  · exact .inl hreset

end

/-- Settles O49: only a closed frame or `Rst` moves the session, and of the frames only two kinds lower it. -/
theorem confirmedNeverDecreases : Obligations.ConfirmedNeverDecreases := by
  refine ⟨fun i s s' h => exec_session h, fun e s hrst hrx => inputEvent_session hrst hrx s,
    fun b s => ⟨fun hopen => ?stays,
    fun h x hcloses => ⟨fun hmore hreset hinit => ?other, fun hmore => ?more⟩⟩, fun s s' hstep hmoved => ?step⟩
  case stays => exact (inputEvent_rxByte_session b s).resolve_right fun hclosed => hopen _ hclosed.1
  case other =>
    obtain hsame | ⟨_, hmoves⟩ := inputEvent_rxByte_session b s
    · exact hsame
    · obtain ⟨_, _, _, _, _, _, hframe⟩ := hcloses
      rw [hframe] at hmoves
      obtain hsame | ⟨hhead, _⟩ | hinit' | hhead := hmoves
      · exact hsame
      · exact absurd (Option.some.inj hhead) hmore
      · exact absurd hinit' hinit
      · exact absurd (Option.some.inj hhead) hreset
  case more =>
    subst hmore
    obtain hsame | ⟨_, hmoves⟩ := inputEvent_rxByte_session b s
    · exact ⟨hsame.1 ▸ le_rfl, hsame.2⟩
    · obtain ⟨_, _, _, _, _, _, hframe⟩ := hcloses
      rw [hframe] at hmoves
      obtain hsame | ⟨_, hmore, htotal⟩ | hinit | hhead := hmoves
      · exact ⟨hsame.1 ▸ le_rfl, hsame.2⟩
      · exact ⟨hmore, htotal⟩
      · exact absurd (Option.some.inj hinit.head?_eq) (by decide)
      · exact absurd (Option.some.inj hhead) (by decide)
  case step =>
    obtain hturn | ⟨e, rest, hinputs, rfl⟩ := step_eq_next hstep
    · exact absurd hmoved (stepEvent_session hturn).not_moved
    refine ⟨rest, ?_⟩
    by_cases hrst : e = .rst
    case pos => exact .inl (hrst ▸ hinputs)
    by_cases hrx : ∃ b, e = .rxByte b
    case neg =>
      exact absurd hmoved (inputEvent_session hrst (not_exists.1 hrx) { s with inputs := rest }).not_moved
    obtain ⟨b, rfl⟩ := hrx
    obtain hsame | ⟨hcloses, hmoves⟩ := inputEvent_rxByte_session b { s with inputs := rest }
    · exact absurd hmoved hsame.not_moved
    · obtain ⟨h, x, hframe⟩ := exists_cons_of_closesFrame hcloses
      have hkind := hmoves.reset_or_init hmoved
      rw [hframe] at hcloses hkind
      exact .inr ⟨b, h, x, hinputs, hcloses, hkind.imp_left fun hhead => Option.some.inj hhead⟩

end Sys2Proof.Machine

/-! PROOF. The loader: headers that end a load (R321, R323), the stacks (R330), and the walk (R325 to R327). -/

namespace Sys2Proof.Machine

/-- Settles O52: the two tests before the walk. -/
theorem badHeaderIsLinkError : Obligations.BadHeaderIsLinkError := by
  intro s
  refine ⟨fun hshort => if_pos hshort, fun hwhole hbad => ?_⟩
  have hnot : (!headerOk (s.valueAt 16 2).toNat (s.valueAt 16 4).toNat (s.valueAt 16 6).toNat
      (s.totalLen.toNat - headerLength) s.params.memCap) = true := by
    rw [Bool.not_eq_true', ← Bool.not_eq_true, headerOk_eq_true]
    rintro ⟨hps, hn, hcap, hep, hxb⟩
    exact hbad ⟨hps, hn, hcap, hep, hxb⟩
  exact (if_neg (Nat.not_lt.2 hwhole)).trans (if_pos hnot)

/-! ## The stacks (R330) -/

section
variable {p : Params} {xb t : Nat} {T : Thread}

theorem getElem?_carvedThreads (h : (carvedThreads p xb)[t]? = some T) : t < p.nThreads ∧ carvedThread p xb t = T := by
  obtain ⟨u, hu, hT⟩ := List.getElem?_map .. ▸ h |> Option.map_eq_some_iff.1
  obtain ⟨ht, rfl⟩ := List.getElem?_eq_some_iff.1 hu
  rw [List.length_range] at ht
  rw [List.getElem_range] at hT
  exact ⟨ht, hT⟩

/-- Each region begins where the one before it ends. -/
theorem carvedBottom_succ (p : Params) (xb t : Nat) : carvedBottom p xb (t + 1) = carvedTop p xb t := by
  rw [carvedBottom, carvedTop, if_neg (Nat.succ_ne_zero t)]

end

/-- Settles O54: the bounds are those of the even division, and no word wraps below `MEM_CAP`. -/
theorem stacksAreCarved : Obligations.StacksAreCarved := by
  intro p xb hok hxb
  refine ⟨by rw [carvedThreads, List.length_map, List.length_range], fun t T hT => ?_⟩
  obtain ⟨ht, rfl⟩ := getElem?_carvedThreads hT
  obtain ⟨hbottom, htop⟩ := toNat_carvedThread hok hxb ht
  refine ⟨hbottom, htop, fun hlast => htop.trans (carvedTop_last p hxb hlast), fun U hU => ?_, rfl, rfl, rfl, rfl⟩
  obtain ⟨hnext, rfl⟩ := getElem?_carvedThreads hU
  exact BitVec.eq_of_toNat_eq (by rw [(toNat_carvedThread hok hxb hnext).1, htop, carvedBottom_succ])

/-! ## The names of the natives (R231, R327) -/

/-- The names as bytes are the names as text. -/
theorem nativeStrings_eq : nativeStrings = nativeNames.map (fun r => (r.1, BitVec.ofNat 8 r.2)) := by decide

/-- The names are distinct and hold no zero byte, and the ids are below 4. -/
theorem nativeNames_facts : ∀ r ∈ nativeNames, nativeIdOf r.1 = some r.2 ∧ (0 : Byte) ∉ r.1 ∧ r.2 < 4 := by decide

theorem mem_nativeNames_of_nativeIdOf {name : List Byte} {id : Nat} (h : nativeIdOf name = some id) :
    (name, id) ∈ nativeNames := by
  obtain ⟨r, hfind, rfl⟩ := Option.map_eq_some_iff.1 h
  have hname : r.1 = name := by simpa using List.find?_some hfind
  rw [← hname]
  exact List.mem_of_find?_eq_some hfind

section
variable {s s' : State} {p t n : Nat}

/-- A name that stands is the name that is read (R327). -/
theorem nameAt_of_nameStands {name : List Byte} (hzero : (0 : Byte) ∉ name) (h : NameStands s n t name) :
    nameAt t (n - t) s = some name := by
  obtain ⟨hbelow, hbytes, hend⟩ := h
  exact nameAt_eq_some.2 ⟨by omega, hbytes, hend, hzero⟩

theorem resolve_of_nameStands {r : List Byte × Byte} (hr : r ∈ nativeStrings) (h : NameStands s n t r.1) :
    resolve p t n s = some (s.writeBytes p [0x63, r.2, 0x00]) := by
  rw [nativeStrings_eq] at hr
  obtain ⟨⟨name, id⟩, hmem, rfl⟩ := List.mem_map.1 hr
  obtain ⟨hid, hzero, _⟩ := nativeNames_facts _ hmem
  have hbelow : t + name.length < n := h.1
  exact resolve_eq_some.2 ⟨name, id, by omega, nameAt_of_nameStands hzero h, hid, rfl⟩

/-- What `Resolve` finds is one of the four names (R327). -/
theorem exists_nameStands_of_resolve (h : resolve p t n s = some s') :
    ∃ r ∈ nativeStrings, NameStands s n t r.1 := by
  obtain ⟨name, id, hbelow, hname, hid, _⟩ := resolve_eq_some.1 h
  obtain ⟨hlen, hbytes, hend, _⟩ := nameAt_eq_some.1 hname
  refine ⟨(name, BitVec.ofNat 8 id), ?_, show t + name.length < n by omega, hbytes, hend⟩
  rw [nativeStrings_eq]
  exact List.mem_map.2 ⟨_, mem_nativeNames_of_nativeIdOf hid, rfl⟩

theorem resolve_eq_none (h : ∀ r ∈ nativeStrings, ¬ NameStands s n t r.1) : resolve p t n s = none := by
  refine Option.eq_none_iff_forall_ne_some.2 fun s' hresolved => ?_
  obtain ⟨r, hr, hstands⟩ := exists_nameStands_of_resolve hresolved
  exact h r hr hstands

end

/-! ## One turn of the walk (R325) -/

section
variable {xb n fuel p len : Nat} {s s' : State}

theorem linkWalk_done (h : xb ≤ p) : linkWalk xb n fuel p s = (s, true) := by
  cases fuel with
  | zero => exact congrArg (Prod.mk s) (decide_eq_true h)
  | succ fuel => exact if_pos h

theorem linkWalk_unassigned (hp : p < xb) (hlen : lenOf (s.byteAt p) = none) :
    linkWalk xb n (fuel + 1) p s = (s, false) := by
  simp only [linkWalk, if_neg (Nat.not_le.2 hp), hlen]

theorem linkWalk_ecall (hp : p < xb) (hop : s.byteAt p = 0x63) : linkWalk xb n (fuel + 1) p s = (s, false) := by
  have hlen : lenOf (s.byteAt p) = some 3 := by
    rw [hop]
    rfl
  simp only [linkWalk, if_neg (Nat.not_le.2 hp), hlen]
  exact if_pos hop

theorem linkWalk_crossing (hp : p < xb) (hlen : lenOf (s.byteAt p) = some len) (hcross : xb < p + len) :
    linkWalk xb n (fuel + 1) p s = (s, false) := by
  simp only [linkWalk, if_neg (Nat.not_le.2 hp), hlen, if_pos hcross, ite_self]

theorem linkWalk_plain (hp : p < xb) (hlen : lenOf (s.byteAt p) = some len) (hwhole : p + len ≤ xb)
    (hcall : s.byteAt p ≠ 0x61) (hecall : s.byteAt p ≠ 0x63) :
    linkWalk xb n (fuel + 1) p s = linkWalk xb n fuel (p + len) s := by
  simp only [linkWalk, if_neg (Nat.not_le.2 hp), hlen, if_neg hecall, if_neg (Nat.not_lt.2 hwhole), if_neg hcall]

section
variable (hp : p < xb) (hcall : s.byteAt p = 0x61) (hwhole : p + 3 ≤ xb)
include hp hcall hwhole

theorem linkWalk_call_below (ht : leNat (s.readBytes (p + 1) 2) < xb) :
    linkWalk xb n (fuel + 1) p s = linkWalk xb n fuel (p + 3) s := by
  simp only [linkWalk, if_neg (Nat.not_le.2 hp), hcall, show lenOf 0x61 = some 3 from rfl, if_neg (Nat.not_lt.2 hwhole),
    if_neg (Nat.not_le.2 ht), show (0x61 : Byte) ≠ 0x63 by decide, if_true, if_false]

theorem linkWalk_call_unresolved (ht : xb ≤ leNat (s.readBytes (p + 1) 2))
    (hnone : resolve p (leNat (s.readBytes (p + 1) 2)) n s = none) : linkWalk xb n (fuel + 1) p s = (s, false) := by
  simp only [linkWalk, if_neg (Nat.not_le.2 hp), hcall, show lenOf 0x61 = some 3 from rfl, if_neg (Nat.not_lt.2 hwhole),
    if_pos ht, hnone, show (0x61 : Byte) ≠ 0x63 by decide, if_true, if_false]

theorem linkWalk_call_resolved (ht : xb ≤ leNat (s.readBytes (p + 1) 2))
    (hsome : resolve p (leNat (s.readBytes (p + 1) 2)) n s = some s') :
    linkWalk xb n (fuel + 1) p s = linkWalk xb n fuel (p + 3) s' := by
  simp only [linkWalk, if_neg (Nat.not_le.2 hp), hcall, show lenOf 0x61 = some 3 from rfl, if_neg (Nat.not_lt.2 hwhole),
    if_pos ht, hsome, show (0x61 : Byte) ≠ 0x63 by decide, if_true, if_false]

end

end

/-! ## Fuel -/

theorem lenOf_pos {op : Byte} {len : Nat} (h : lenOf op = some len) : 0 < len := by
  obtain ⟨r, _, rfl⟩ := Option.map_eq_some_iff.1 h
  cases r.format <;> decide

/-- A CALL has three bytes (R213). -/
theorem lenOf_call {op : Byte} {len : Nat} (h : lenOf op = some len) (hop : op = 0x61) : len = 3 := by
  subst hop
  exact (Option.some.inj h).symm

/-- Walks that agree behind `p` agree at `p`. -/
theorem linkWalk_succ_congr {xb n f g p : Nat} {s : State}
    (h : ∀ q, p < q → ∀ s', linkWalk xb n f q s' = linkWalk xb n g q s') :
    linkWalk xb n (f + 1) p s = linkWalk xb n (g + 1) p s := by
  simp only [linkWalk]
  cases hlen : lenOf (s.byteAt p) with
  | none => rfl
  | some len => simp only [h (p + len) (Nat.lt_add_of_pos_right (lenOf_pos hlen))]

/-- Every turn passes at least one byte, so as many turns as bytes are enough (R325). -/
theorem linkWalk_fuel {xb n p f g : Nat} {s : State} (hf : xb ≤ p + f) (hg : xb ≤ p + g) :
    linkWalk xb n f p s = linkWalk xb n g p s := by
  induction f generalizing g p s with
  | zero => rw [linkWalk_done (p := p) hf, linkWalk_done (p := p) hf]
  | succ f ih =>
    cases g with
    | zero => rw [linkWalk_done (p := p) hg, linkWalk_done (p := p) hg]
    | succ g => exact linkWalk_succ_congr fun q hq s' => ih (by omega) (by omega)

/-! ## What the walk leaves and what it passes -/

section
variable {xb n fuel p len : Nat} {s s' : State}

/-- What one turn writes lies in the instruction that it passes. -/
theorem byteAt_resolve_outside {t a : Nat} (h : resolve p t n s = some s') (ha : a < p ∨ p + 3 ≤ a) :
    s'.byteAt a = s.byteAt a := by
  obtain ⟨_, id, _, _, _, rfl⟩ := resolve_eq_some.1 h
  exact byteAt_writeBytes_outside s p [0x63, BitVec.ofNat 8 id, 0x00] a ha

theorem byteAt_linkWalk_outside {a : Nat} (ha : a < p ∨ xb ≤ a) :
    (linkWalk xb n fuel p s).1.byteAt a = s.byteAt a := by
  induction fuel generalizing p s with
  | zero => rfl
  | succ fuel ih =>
    by_cases hp : xb ≤ p
    case pos => rw [linkWalk_done hp]
    case neg =>
      obtain hfail | ⟨len, s', hlen, hwhole, _, hgoes, ⟨rfl, _⟩ | ⟨hcall, hresolved⟩⟩ :=
        linkWalk_below n fuel s (Nat.not_le.1 hp)
      · rw [hfail]
      · rw [hgoes]
        exact ih (by omega)
      · obtain rfl := lenOf_call hlen hcall
        rw [hgoes, ih (by omega), byteAt_resolve_outside hresolved (by omega)]

theorem readBytes_eq_of_byteAt {x k : Nat} (h : ∀ a, a < x + k → s'.byteAt a = s.byteAt a) :
    s'.readBytes x k = s.readBytes x k := by
  induction k generalizing x with
  | zero => rfl
  | succ k ih => exact congrArg₂ List.cons (h x (by omega)) (ih fun a ha => h a (by omega))

/-- A section that begins with a whole instruction within the boundary. -/
theorem linkedFrom_succ (hlen : lenOf (s.byteAt p) = some len) (hwhole : p + len ≤ xb)
    (hcall : s.byteAt p = 0x61 → leNat (s.readBytes (p + 1) 2) < xb)
    (hecall : s.byteAt p = 0x63 → leNat (s.readBytes (p + 1) 2) < 4) (hrest : linkedFrom xb fuel (p + len) s = true) :
    linkedFrom xb (fuel + 1) p s = true := by
  by_cases hp : xb ≤ p
  case pos => exact if_pos hp
  case neg =>
    simp only [linkedFrom, if_neg hp, hlen, hrest, hwhole, decide_true, Bool.true_and, Bool.and_true, Bool.and_eq_true,
      Bool.or_eq_true, bne_iff_ne, decide_eq_true_eq]
    exact ⟨Decidable.not_or_of_imp hcall, Decidable.not_or_of_imp hecall⟩

/-- A resolved CALL is an ECALL of a native (R327). -/
theorem ecall_of_resolve {t : Nat} (h : resolve p t n s = some s') :
    s'.byteAt p = 0x63 ∧ leNat (s'.readBytes (p + 1) 2) < 4 := by
  obtain ⟨name, id, _, _, hid, rfl⟩ := resolve_eq_some.1 h
  have hread := readBytes_writeBytes s p [0x63, BitVec.ofNat 8 id, 0x00]
  obtain ⟨hop, hoperand⟩ := List.cons.inj hread
  refine ⟨hop, ?_⟩
  have hbytes : (s.writeBytes p [0x63, BitVec.ofNat 8 id, 0x00]).readBytes (p + 1) 2 = [BitVec.ofNat 8 id, 0x00] :=
    hoperand
  obtain ⟨_, _, hsmall⟩ := nativeNames_facts _ (mem_nativeNames_of_nativeIdOf hid)
  rw [hbytes]
  have hlow : (BitVec.ofNat 8 id).toNat = id := by
    rw [BitVec.toNat_ofNat, Nat.mod_eq_of_lt]
    exact hsmall.trans (by decide)
  simp only [leNat, hlow]
  exact hsmall

/-- The walk passes whole instructions, and nothing behind them changes them again (R112). -/
theorem linkedFrom_linkWalk (h : (linkWalk xb n fuel p s).2 = true) :
    linkedFrom xb fuel p (linkWalk xb n fuel p s).1 = true := by
  induction fuel generalizing p s with
  | zero => exact h
  | succ fuel ih =>
    by_cases hp : xb ≤ p
    case pos => exact if_pos hp
    case neg =>
      obtain hfail | ⟨len, s', hlen, hwhole, hecall, hgoes, hkind⟩ := linkWalk_below n fuel s (Nat.not_le.1 hp)
      · rw [hfail] at h
        cases h
      · rw [hgoes] at h ⊢
        have hkept : ∀ a, a < p + len → (linkWalk xb n fuel (p + len) s').1.byteAt a = s'.byteAt a :=
          fun a ha => byteAt_linkWalk_outside (.inl ha)
        have hop := hkept p (Nat.lt_add_of_pos_right (lenOf_pos hlen))
        obtain ⟨rfl, hcall⟩ | ⟨hcall, hresolved⟩ := hkind
        · refine linkedFrom_succ (len := len) (by rwa [hop]) hwhole (fun hcall' => ?_)
            (fun hecall' => absurd (hop.symm.trans hecall') hecall) (ih h)
          rw [hop] at hcall'
          obtain rfl := lenOf_call hlen hcall'
          rw [readBytes_eq_of_byteAt fun a ha => hkept a (by omega)]
          exact hcall hcall'
        · obtain ⟨hop', hsmall⟩ := ecall_of_resolve hresolved
          obtain rfl := lenOf_call hlen hcall
          rw [hop'] at hop
          refine linkedFrom_succ (len := 3) (by rw [hop]; rfl) hwhole
            (fun hcall' => absurd (hop.symm.trans hcall') (by decide)) (fun _ => ?_) (ih h)
          rw [readBytes_eq_of_byteAt fun a ha => hkept a (by omega)]
          exact hsmall

end

/-- Settles O53: each branch of a turn, the fuel by induction, and the section by induction along the walk. -/
theorem walkLinksSection : Obligations.WalkLinksSection := by
  refine ⟨fun xb n fuel p s => ⟨linkWalk_done, fun hp => ?turn⟩, fun xb n p f g s => linkWalk_fuel,
    fun xb n fuel p s => ⟨linkWalk_sameButMem xb n fuel p s, fun a => byteAt_linkWalk_outside, linkedFrom_linkWalk⟩⟩
  refine ⟨fun hnone => linkWalk_unassigned hp (lenOf_eq_none hnone), linkWalk_ecall hp,
    fun i hi => linkWalk_crossing hp (lenOf_head_encode hi),
    fun i hi hcall hecall hwhole => linkWalk_plain hp (lenOf_head_encode hi) hwhole hcall hecall,
    fun hcall hwhole => ?call⟩
  rw [toNat_valueAt s 16 (p + 1) (by decide)]
  exact ⟨linkWalk_call_below hp hcall hwhole, fun ht =>
    ⟨fun hnone => linkWalk_call_unresolved hp hcall hwhole ht (resolve_eq_none hnone),
      fun r hr hstands => linkWalk_call_resolved hp hcall hwhole ht (resolve_of_nameStands hr hstands)⟩⟩

end Sys2Proof.Machine
